-- ==== Sys2Proof/Word.lean ====
section
/-!
DEFINITION. Word.lean: the widths of the core's values (10_state.md R30 to R35, 30_encoding.md R81).
-/

namespace Sys2Proof

/-- One byte of a byte sequence (00_scope.md R18). -/
abbrev Byte := BitVec 8

/-- A 64-bit register or operand (00_scope.md R17); `+`, `*` on it wrap modulo 2^64. -/
abbrev Word := BitVec 64

/-- A command word `CW` of format C17 (30_encoding.md R81). -/
abbrev CmdWord := BitVec 136

end Sys2Proof
end

