-- ==== Sys2Proof/Config.lean ====
section
/-!
DEFINITION. Config.lean: the build parameters of the core (00_scope.md R8, R10 to R13, R15) and the free values.
The parameters are plain data, so that a claim over all states is a claim over all builds (assumption log 1).
The three opaque constants have no body: no proof can see their values.
-/

namespace Sys2Proof

/-- `XS_MODE` (00_scope.md R11). -/
inductive XsMode where
  | parallel
  | sequential
  deriving DecidableEq, Repr

/-- Which instance of the digest parameter `H256` the build uses (00_scope.md R12). -/
inductive DigestSel where
  /-- Any total function from byte sequences to 32 bytes: `Config.externalDigest` (48_reference_digest.md R220). -/
  | external
  /-- The reference instance SHA-256 (48_reference_digest.md R221). -/
  | sha256
  /-- The test-only instance `H_FOLD` (48_reference_digest.md R232). -/
  | hFold
  deriving DecidableEq, Repr

/-- The six constants of the mixing function (00_scope.md R10). -/
structure MixParams where
  gamma : Word
  r1 : Nat
  m1 : Word
  r2 : Nat
  m2 : Word
  r3 : Nat
  deriving DecidableEq, Repr

/-- All that 00_scope.md R10 lets a model assume of the constants: odd, and shifts in 1..63. -/
def MixParams.wf (p : MixParams) : Bool :=
  p.gamma.getLsbD 0 && p.m1.getLsbD 0 && p.m2.getLsbD 0
    && decide (1 ≤ p.r1 ∧ p.r1 ≤ 63) && decide (1 ≤ p.r2 ∧ p.r2 ≤ 63) && decide (1 ≤ p.r3 ∧ p.r3 ≤ 63)

/-- The parameters a core is built with (00_scope.md R15): no step changes them. -/
structure Config where
  mix : MixParams
  xsMode : XsMode
  digest : DigestSel
  hasDerived : Bool
  hasRdreg : Bool
  deriving DecidableEq, Repr

/-- A build the spec admits. -/
def Config.wf (c : Config) : Bool := c.mix.wf

/-- FREE VALUE. `H256` as an uninterpreted function (00_scope.md R12, 93 U1; assumption log 1). -/
opaque Config.externalDigest : List Byte → Vector Byte 32

/-- FREE VALUE. The `n`-th entropy reply that nobody gave in advance (41_seeding.md R135, 93 U2; assumption log 3). -/
opaque Config.entropyReply : Nat → Vector Byte 8

/-- FREE VALUE. What the register of read-out index `i` (0 to 5) holds after reset number `epoch`, before the first
seeding (10_state.md R50, 93 U11; assumption log 2). -/
opaque Config.unsetWord (epoch i : Nat) : Word

end Sys2Proof
end

