-- ==== Sys2Proof/Machine/Bits.lean ====
section
/-!
DEFINITION. Machine/Bits.lean: rotation, byte order and signed reading (00_scope.md R17 to R19).
-/

namespace Sys2Proof

/-- `rotl64(x, k) = (x << k) | (x >> (64 - k))`, for 0 < k < 64 (00_scope.md R17). -/
def rotl64 (x : Word) (k : Nat) : Word := (x <<< k) ||| (x >>> (64 - k))

/-- The `n` low bytes of `v`, least significant first: byte `i` is `v[8i+7:8i]` (00_scope.md R18). -/
def leBytes {w : Nat} (n : Nat) (v : BitVec w) : List Byte :=
  (List.range n).map fun i => v.extractLsb' (8 * i) 8

/-- `le64` (00_scope.md R18). -/
def le64 (v : Word) : List Byte := leBytes 8 v

/-- The sum of `b[i] * 2^(8i)` over a byte sequence (00_scope.md R18). -/
def fromLE : List Byte → Nat
  | [] => 0
  | b :: bs => b.toNat + 256 * fromLE bs

/-- `from_le64` (00_scope.md R18), for a sequence of 8 bytes. -/
def fromLE64 (bs : List Byte) : Word := BitVec.ofNat 64 (fromLE bs)

/-- `sint64(v)`: `v` below 2^63, else `v - 2^64` (00_scope.md R19). -/
def sint64 (v : Word) : Int := if v.toNat < 2 ^ 63 then v.toNat else (v.toNat : Int) - 2 ^ 64

/-- `to_u64(z) = z mod 2^64` (00_scope.md R19). -/
def toU64 (z : Int) : Word := BitVec.ofInt 64 z

end Sys2Proof
end

