-- ==== Sys2Proof/Machine/Digest.lean ====
section
/-!
DEFINITION. Machine/Digest.lean: the digest parameter `H256` (00_scope.md R12) and its two written-out instances,
SHA-256 (48_reference_digest.md R222 to R229) and `H_FOLD` (R232). Nothing here but `h256` is part of the core (R220).
-/

namespace Sys2Proof

/-- A 32-bit word of SHA-256 (48_reference_digest.md R222). -/
abbrev W32 := BitVec 32

/-- `ROTR(x, n)` (48_reference_digest.md R222). -/
def rotr32 (x : W32) (n : Nat) : W32 := (x >>> n) ||| (x <<< (32 - n))

/-- `Ch` (48_reference_digest.md R222). -/
def shaCh (x y z : W32) : W32 := (x &&& y) ^^^ (~~~x &&& z)

/-- `Maj` (48_reference_digest.md R222). -/
def shaMaj (x y z : W32) : W32 := (x &&& y) ^^^ (x &&& z) ^^^ (y &&& z)

/-- `BSIG0` (48_reference_digest.md R222). -/
def shaBsig0 (x : W32) : W32 := rotr32 x 2 ^^^ rotr32 x 13 ^^^ rotr32 x 22

/-- `BSIG1` (48_reference_digest.md R222). -/
def shaBsig1 (x : W32) : W32 := rotr32 x 6 ^^^ rotr32 x 11 ^^^ rotr32 x 25

/-- `SSIG0` (48_reference_digest.md R222). -/
def shaSsig0 (x : W32) : W32 := rotr32 x 7 ^^^ rotr32 x 18 ^^^ (x >>> 3)

/-- `SSIG1` (48_reference_digest.md R222). -/
def shaSsig1 (x : W32) : W32 := rotr32 x 17 ^^^ rotr32 x 19 ^^^ (x >>> 10)

/-- The eight words `a..h` of a hash value (48_reference_digest.md R223, R227). -/
structure ShaState where
  a : W32
  b : W32
  c : W32
  d : W32
  e : W32
  f : W32
  g : W32
  h : W32
  deriving DecidableEq, Repr

/-- `H0` (48_reference_digest.md R223). -/
def shaInit : ShaState where
  a := 0x6a09e667
  b := 0xbb67ae85
  c := 0x3c6ef372
  d := 0xa54ff53a
  e := 0x510e527f
  f := 0x9b05688c
  g := 0x1f83d9ab
  h := 0x5be0cd19

/-- The round constants `K[0..63]` (48_reference_digest.md R224). -/
def shaK : List W32 :=
  [0x428a2f98, 0x71374491, 0xb5c0fbcf, 0xe9b5dba5, 0x3956c25b, 0x59f111f1, 0x923f82a4, 0xab1c5ed5]
  ++ [0xd807aa98, 0x12835b01, 0x243185be, 0x550c7dc3, 0x72be5d74, 0x80deb1fe, 0x9bdc06a7, 0xc19bf174]
  ++ [0xe49b69c1, 0xefbe4786, 0x0fc19dc6, 0x240ca1cc, 0x2de92c6f, 0x4a7484aa, 0x5cb0a9dc, 0x76f988da]
  ++ [0x983e5152, 0xa831c66d, 0xb00327c8, 0xbf597fc7, 0xc6e00bf3, 0xd5a79147, 0x06ca6351, 0x14292967]
  ++ [0x27b70a85, 0x2e1b2138, 0x4d2c6dfc, 0x53380d13, 0x650a7354, 0x766a0abb, 0x81c2c92e, 0x92722c85]
  ++ [0xa2bfe8a1, 0xa81a664b, 0xc24b8b70, 0xc76c51a3, 0xd192e819, 0xd6990624, 0xf40e3585, 0x106aa070]
  ++ [0x19a4c116, 0x1e376c08, 0x2748774c, 0x34b0bcb5, 0x391c0cb3, 0x4ed8aa4a, 0x5b9cca4f, 0x682e6ff3]
  ++ [0x748f82ee, 0x78a5636f, 0x84c87814, 0x8cc70208, 0x90befffa, 0xa4506ceb, 0xbef9a3f7, 0xc67178f2]

/-- Padding (48_reference_digest.md R225): `0x80`, the fewest zeros to length 56 modulo 64, the bit length big-endian.
DESIGN CHOICE (assumption log 9): for 2^61 bytes or more, whose bit length has no 8-byte encoding, it is taken modulo
2^64; the core's input is 40 bytes. -/
def shaPad (m : List Byte) : List Byte :=
  m ++ 0x80 :: List.replicate ((119 - m.length % 64) % 64) 0
    ++ (leBytes 8 (BitVec.ofNat 64 (8 * m.length))).reverse

/-- The big-endian 32-bit word of four bytes (48_reference_digest.md R226). -/
def be32 (b0 b1 b2 b3 : Byte) : W32 := ((b0 ++ b1) ++ b2) ++ b3

/-- The first `n` big-endian words of a byte list (48_reference_digest.md R226). -/
def be32s : Nat → List Byte → List W32
  | n + 1, b0 :: b1 :: b2 :: b3 :: rest => be32 b0 b1 b2 b3 :: be32s n rest
  | _, _ => []

/-- `n` more words of the message schedule, on a list that holds the newest word first (48_reference_digest.md R226). -/
def shaExtend : Nat → List W32 → List W32
  | 0, l => l
  | n + 1, l =>
    shaExtend n ((shaSsig1 (l.getD 1 0) + l.getD 6 0 + shaSsig0 (l.getD 14 0) + l.getD 15 0) :: l)

/-- `W[0..63]` of a 64-byte block (48_reference_digest.md R226). -/
def shaSchedule (block : List Byte) : List W32 := (shaExtend 48 (be32s 16 block).reverse).reverse

/-- One round of the compression (48_reference_digest.md R227). -/
def shaRound (s : ShaState) (kw : W32 × W32) : ShaState :=
  let t1 := s.h + shaBsig1 s.e + shaCh s.e s.f s.g + kw.1 + kw.2
  let t2 := shaBsig0 s.a + shaMaj s.a s.b s.c
  { a := t1 + t2, b := s.a, c := s.b, d := s.c, e := s.d + t1, f := s.e, g := s.f, h := s.g }

/-- Compression of one block (48_reference_digest.md R227). -/
def shaCompress (s : ShaState) (block : List Byte) : ShaState :=
  let r := (List.zip shaK (shaSchedule block)).foldl shaRound s
  { a := s.a + r.a, b := s.b + r.b, c := s.c + r.c, d := s.d + r.d,
    e := s.e + r.e, f := s.f + r.f, g := s.g + r.g, h := s.h + r.h }

/-- Compression of `n` blocks in order (48_reference_digest.md R225, R227). -/
def shaBlocks : Nat → ShaState → List Byte → ShaState
  | 0, s, _ => s
  | n + 1, s, m => shaBlocks n (shaCompress s (m.take 64)) (m.drop 64)

/-- A 32-bit word as four bytes, most significant first (48_reference_digest.md R229). -/
def be32Bytes (w : W32) : List Byte :=
  [w.extractLsb' 24 8, w.extractLsb' 16 8, w.extractLsb' 8 8, w.extractLsb' 0 8]

/-- The digest bytes of a hash value (48_reference_digest.md R229). -/
def shaOutput (s : ShaState) : List Byte :=
  be32Bytes s.a ++ be32Bytes s.b ++ be32Bytes s.c ++ be32Bytes s.d
    ++ be32Bytes s.e ++ be32Bytes s.f ++ be32Bytes s.g ++ be32Bytes s.h

/-- SHA-256, the reference instance (48_reference_digest.md R221 to R229). -/
def sha256 (m : List Byte) : Vector Byte 32 :=
  ⟨⟨shaOutput (shaBlocks ((shaPad m).length / 64) shaInit (shaPad m))⟩, rfl⟩

/-- The `j`-th little-endian 64-bit word of a byte list; bytes the list does not have count as 0 (assumption log 9). -/
def wordAt (m : List Byte) (j : Nat) : Word := fromLE64 ((m.drop (8 * j)).take 8)

/-- `f = (w0 + 3*w1 + 5*w2 + 7*w3 + 11*w4) mod 2^64` (48_reference_digest.md R232). -/
def hFoldWord (m : List Byte) : Word :=
  wordAt m 0 + 3 * wordAt m 1 + 5 * wordAt m 2 + 7 * wordAt m 3 + 11 * wordAt m 4

/-- `H_FOLD`, the test-only instance: `le64(f)` and 24 zero bytes (48_reference_digest.md R232). DESIGN CHOICE
(assumption log 9): R232 defines it on 40-byte inputs only; on another length bytes not there count as 0 and bytes
past the 40th are ignored; the core gives it 40 bytes. -/
def hFold (m : List Byte) : Vector Byte 32 :=
  ⟨⟨le64 (hFoldWord m) ++ List.replicate 24 0⟩, rfl⟩

/-- `H256` as the build selects it (00_scope.md R12, 30_encoding.md R98). -/
def h256 (d : DigestSel) (m : List Byte) : Vector Byte 32 :=
  match d with
  | .external => Config.externalDigest m
  | .sha256 => sha256 m
  | .hFold => hFold m

end Sys2Proof
end

