-- ==== Sys2Proof/Machine/Build.lean ====
section
/-!
DEFINITION. Machine/Build.lean: the literals the source fixes (00_scope.md R9), the reference mixing constants
(R10), and the default build a core has at reset.
-/

namespace Sys2Proof

/-- `CTR_INC` (00_scope.md R9, 10_state.md R32). -/
def ctrInc : Word := 0x517CC1B727220A95#64

/-- The shift in the transition (00_scope.md R9). -/
def xsShift : Nat := 17

/-- The rotation in the transition (00_scope.md R9). -/
def xsRot : Nat := 45

/-- The SplitMix64 constants, the reference values of 00_scope.md R10 (general knowledge by the spec's own mark). -/
def MixParams.reference : MixParams where
  gamma := 0x9E3779B97F4A7C15#64
  r1 := 30
  m1 := 0xBF58476D1CE4E5B9#64
  r2 := 27
  m2 := 0x94D049BB133111EB#64
  r3 := 31

/-- The build of `State.reset`: every parameter at the spec's default or reference value, the digest uninterpreted
(00_scope.md R8, R10 to R13; assumption log 1). DESIGN CHOICE where the spec leaves the parameter open. -/
def buildConfig : Config where
  mix := MixParams.reference
  xsMode := .parallel
  digest := .external
  hasDerived := true
  hasRdreg := true

end Sys2Proof
end

