-- ==== Sys2Proof/Machine/State.lean ====
section
/-!
DEFINITION. Machine/State.lean: all the state the spec gives the core (10_state.md R30 to R36, R47), its interfaces as
queues (30_encoding.md R80), the counters of the free values, the reset state (10_state.md R50), and the ways a step
can end. The core has no memory (10_state.md R38, 20_memory.md R65), so State holds none.
-/

namespace Sys2Proof.Machine

/-- How a machine step could fault. The spec gives this core no fault: its three errors are ordinary responses
(60_exceptions.md R245), so the type has no constructor and no step faults. -/
inductive Fault where
  deriving DecidableEq, Repr

/-- How the model can refuse an instruction. -/
inductive Refusal where
  /-- Raised by an arm of `exec` whose instruction has no meaning yet; safe. No arm does. -/
  | notModelled (mnemonic : String)
  deriving DecidableEq, Repr

/-- The three errors the core raises (60_exceptions.md R240). -/
inductive CoreError where
  | invalidRange
  | unseeded
  | illegal
  deriving DecidableEq, Repr

/-- The status of a response (30_encoding.md R97). -/
inductive Status where
  | ok
  | errInvalidRange
  | errUnseeded
  | errIllegal
  deriving DecidableEq, Repr

/-- A response record (30_encoding.md R95). -/
structure Response where
  status : Status
  payload : List Byte
  deriving DecidableEq, Repr

/-- What the host puts on the core's input side (30_encoding.md R80 (1), 60_exceptions.md R263). -/
inductive HostEvent where
  /-- One command word; held while another command is in progress (70_reset_and_hazards.md R280). -/
  | command (cw : CmdWord)
  /-- Reset asserted once the core is idle (70_reset_and_hazards.md R271). -/
  | resetIdle
  /-- Reset asserted at once, also in the middle of a command (70_reset_and_hazards.md R271). -/
  | resetNow
  deriving DecidableEq, Repr

/-- The working values of a RANDINT in progress: exact integers (10_state.md R47, 43_derived.md R187). -/
structure RandintWork where
  a : Int
  span : Nat
  limit : Nat
  deriving DecidableEq, Repr

/-- The core's state. Plain data. -/
structure State where
  /-- The build parameters (00_scope.md R15): not architectural, changed by no step (assumption log 1). -/
  cfg : Config
  /-- 10_state.md R34. -/
  seeded : Bool
  /-- 10_state.md R30. -/
  seed : Word
  /-- 10_state.md R31. -/
  s0 : Word
  /-- 10_state.md R31. -/
  s1 : Word
  /-- 10_state.md R31. -/
  s2 : Word
  /-- 10_state.md R31. -/
  s3 : Word
  /-- 10_state.md R32. -/
  counter : Word
  /-- 10_state.md R35. -/
  out : Word
  /-- A RANDINT between two of its draws (10_state.md R47; assumption log 5). -/
  inflight : Option RandintWork
  /-- The host's commands and resets that the core has not taken yet, in issue order (20_memory.md R71, R72). -/
  cmdIn : List HostEvent
  /-- The responses produced so far, in command order (30_encoding.md R95). -/
  rspOut : List Response
  /-- Entropy replies given in advance, first one first (30_encoding.md R99; assumption log 3). -/
  entIn : List (Vector Byte 8)
  /-- The model's own: how many free entropy replies have been drawn (assumption log 3). -/
  entDrawn : Nat
  /-- The model's own: the number the next reset gives its unset registers (assumption log 2). -/
  epoch : Nat
  deriving DecidableEq, Repr

/-- The machine right after reset (10_state.md R50): `seeded` and `out` are 0; the registers R50 gives no value hold
unconstrained constants (DESIGN CHOICE, assumption log 2); the core is idle with nothing on its interfaces
(DESIGN CHOICE, assumption log 4). -/
def State.reset : State where
  cfg := buildConfig
  seeded := false
  seed := Config.unsetWord 0 5
  s0 := Config.unsetWord 0 0
  s1 := Config.unsetWord 0 1
  s2 := Config.unsetWord 0 2
  s3 := Config.unsetWord 0 3
  counter := Config.unsetWord 0 4
  out := 0
  inflight := none
  cmdIn := []
  rspOut := []
  entIn := []
  entDrawn := 0
  epoch := 1

end Sys2Proof.Machine
end

