-- ==== Sys2Proof/Machine/Ops.lean ====
section
/-!
DEFINITION. Machine/Ops.lean: the shared operations over the state: responding, raising an error (the core's only
exception entry, 60_exceptions.md R241, R251), reset, taking an entropy reply, and the whitening buffer's two accesses.
There is no return from an error to model: nothing was saved and the core is ready for the next command (R252).
-/

namespace Sys2Proof.Machine

/-- The status code on the wire (30_encoding.md R97). -/
def Status.code : Status → Byte
  | .ok => 0x00
  | .errInvalidRange => 0x01
  | .errUnseeded => 0x02
  | .errIllegal => 0x03

/-- A response as bytes: the status byte, then the payload (30_encoding.md R95). -/
def Response.bytes (r : Response) : List Byte := r.status.code :: r.payload

/-- The status an error is reported with (60_exceptions.md R242 to R244). -/
def CoreError.status : CoreError → Status
  | .invalidRange => .errInvalidRange
  | .unseeded => .errUnseeded
  | .illegal => .errIllegal

/-- `respond(status, payload)`: one more response, after those of the earlier commands (00_scope.md R20,
30_encoding.md R95). -/
def respond (st : Status) (payload : List Byte) (s : State) : State :=
  { s with rspOut := s.rspOut ++ [{ status := st, payload := payload }] }

/-- `raise E`: no register is written, the response is the error's status with an empty payload, and nothing else
records the error (60_exceptions.md R241, R251). -/
def raiseError (e : CoreError) (s : State) : State := respond e.status [] s

/-- Reset (70_reset_and_hazards.md R270, R271): `seeded` and `out` are 0, the other six registers hold values nobody
can know, a command in progress ends without a response, and the core is idle. The build, the interfaces' queues and
the responses already given are not state that reset touches. -/
def applyReset (s : State) : State :=
  { s with
    seeded := false
    seed := Config.unsetWord s.epoch 5
    s0 := Config.unsetWord s.epoch 0
    s1 := Config.unsetWord s.epoch 1
    s2 := Config.unsetWord s.epoch 2
    s3 := Config.unsetWord s.epoch 3
    counter := Config.unsetWord s.epoch 4
    out := 0
    inflight := none
    epoch := s.epoch + 1 }

/-- The 8 bytes of one `ENT` reply (30_encoding.md R99): the first one given in advance, else a free value. -/
def entropyReply (s : State) : Vector Byte 8 :=
  match s.entIn with
  | e :: _ => e
  | [] => Config.entropyReply s.entDrawn

/-- The state after one `ENT` reply has been taken: each reply is used once (30_encoding.md R80 (4)). -/
def dropEntropy (s : State) : State :=
  match s.entIn with
  | _ :: rest => { s with entIn := rest }
  | [] => { s with entDrawn := s.entDrawn + 1 }

/-- `MemWrite(WB, addr, 8, v)`: bytes addr..addr+7 become `le64(v)` (00_scope.md R20, 20_memory.md R63). -/
def memWrite (wb : List Byte) (addr : Nat) (v : Word) : List Byte :=
  wb.take addr ++ le64 v ++ wb.drop (addr + 8)

/-- `MemRead(WB, addr, n)`: `n` bytes from `addr` on, in address order (00_scope.md R20, 20_memory.md R63). -/
def memRead (wb : List Byte) (addr n : Nat) : List Byte := (wb.drop addr).take n

end Sys2Proof.Machine
end

