-- ==== Sys2Proof/Machine/Flags.lean ====
section
/-!
DEFINITION. Machine/Flags.lean: the one flag, `seeded` (10_state.md R39): its view as STATUS and the check that a
command needing it makes. No command sets a flag as a side effect but the seeding commands, which set `seeded`.
-/

namespace Sys2Proof.Machine

/-- `STATUS`: bit 0 is `seeded`, bits 63:1 are 0 (10_state.md R41). -/
def statusView (s : State) : Word := if s.seeded then 1 else 0

/-- `if seeded = 0 then raise Unseeded`, else go on with `f` (60_exceptions.md R243). -/
def whenSeeded (f : State → State) (s : State) : State :=
  if s.seeded then f s else raiseError .unseeded s

end Sys2Proof.Machine
end

