-- ==== Sys2Proof/Machine/Operands.lean ====
section
/-!
DEFINITION. Machine/Operands.lean: how the commands read their operands (30_encoding.md R82), the exact quantities
RANDINT forms from its two (43_derived.md R187), and the binary64 pattern RANDOM answers with (R181).
-/

namespace Sys2Proof.Machine

/-- RANDINT reads an operand as a two's-complement integer (30_encoding.md R82). -/
def boundOperand (v : Word) : Int := sint64 v

/-- RANDBYTES reads `A` as an unsigned count (30_encoding.md R82). -/
def countOperand (v : Word) : Nat := v.toNat

/-- RDREG reads all 64 bits of `A` as an unsigned index (30_encoding.md R82). -/
def indexOperand (v : Word) : Nat := v.toNat

/-- The seed of SEEDE: the entropy reply read little-endian (41_seeding.md R134). -/
def entropySeed (e : Vector Byte 8) : Word := fromLE64 e.toList

/-- `span = b - a + 1`, an exact integer, for `a <= b` (43_derived.md R186, R187). -/
def spanOf (a b : Int) : Nat := (b - a + 1).toNat

/-- `limit = floor(2^64 / span) * span`, an exact integer (43_derived.md R186, R187). -/
def limitOf (span : Nat) : Nat := 2 ^ 64 / span * span

/-- The working values of a RANDINT over `[a, b]` (43_derived.md R186, 10_state.md R47). -/
def randintWork (a b : Int) : RandintWork where
  a := a
  span := spanOf a b
  limit := limitOf (spanOf a b)

/-- `r = a + (o mod span)`, an exact integer (43_derived.md R186). -/
def randintResult (w : RandintWork) (o : Word) : Int := w.a + ((o.toNat % w.span : Nat) : Int)

/-- The biased exponent of `v / 2^53`: `970 + k`, `k` the index of the highest 1 bit of `v` (43_derived.md R181). -/
def f64Expo (v : Nat) : Nat := 970 + Nat.log2 v

/-- The fraction field: the bits of `v` below its leading 1, left-aligned in 52 bits (43_derived.md R181). -/
def f64Frac (v : Nat) : Nat := (v <<< (52 - Nat.log2 v)) % 2 ^ 52

/-- `F64BITS(v)`, the binary64 pattern of `v / 2^53`, for `v < 2^53`, by integers only (43_derived.md R181). -/
def f64Bits (v : Nat) : Word :=
  if v = 0 then 0
  else ((0#1 ++ BitVec.ofNat 11 (f64Expo v)) ++ BitVec.ofNat 52 (f64Frac v))

/-- The payload word of RANDOM for the draw `o`: its top 53 bits as a binary64 (43_derived.md R180). -/
def randomBits (o : Word) : Word := f64Bits (o >>> 11).toNat

end Sys2Proof.Machine
end

