-- ==== Sys2Proof/Machine/Draw.lean ====
section
/-!
DEFINITION. Machine/Draw.lean: the draw (transition, whitening, feedback and advance) and NEXT (42_draw.md).
-/

namespace Sys2Proof.Machine

/-- The new words `n0..n3` of a transition (42_draw.md R151). -/
structure NewWords where
  n0 : Word
  n1 : Word
  n2 : Word
  n3 : Word
  deriving DecidableEq, Repr

/-- `XS` under `PARALLEL`: other words are read at their values from before (42_draw.md R152). -/
def xsParallel (s0 s1 s2 s3 : Word) : NewWords :=
  let t := s1 <<< xsShift
  { n0 := s0 ^^^ s3
    n1 := s1 ^^^ s2
    n2 := s2 ^^^ s0 ^^^ t
    n3 := rotl64 (s3 ^^^ s1) xsRot }

/-- `XS` under `SEQUENTIAL`: each statement sees the writes before it (42_draw.md R153). -/
def xsSequential (s0 s1 s2 s3 : Word) : NewWords :=
  let t := s1 <<< xsShift
  let c2 := s2 ^^^ s0
  let c3 := s3 ^^^ s1
  let c1 := s1 ^^^ c2
  let c0 := s0 ^^^ c3
  { n0 := c0, n1 := c1, n2 := c2 ^^^ t, n3 := rotl64 c3 xsRot }

/-- The transition `XS` in the build's mode (00_scope.md R11, 42_draw.md R151). -/
def xs (m : XsMode) (s0 s1 s2 s3 : Word) : NewWords :=
  match m with
  | .parallel => xsParallel s0 s1 s2 s3
  | .sequential => xsSequential s0 s1 s2 s3

/-- The unwhitened candidate `raw = n0 +64 n3` (42_draw.md R155). -/
def rawOf (n : NewWords) : Word := n.n0 + n.n3

/-- The 40 bytes given to the digest: `raw`, `n0`, `n1`, `n2` and the counter before its advance, each little-endian
(42_draw.md R156, 20_memory.md R63). -/
def whiteningBuffer (n : NewWords) (counter : Word) : List Byte :=
  le64 (rawOf n) ++ le64 n.n0 ++ le64 n.n1 ++ le64 n.n2 ++ le64 counter

/-- The same bytes as the draw's pseudocode makes them: five `MemWrite`s, then one `MemRead` (42_draw.md R150). -/
def buildWhiteningBuffer (wb : List Byte) (n : NewWords) (counter : Word) : List Byte :=
  memRead (memWrite (memWrite (memWrite (memWrite (memWrite wb 0 (rawOf n)) 8 n.n0) 16 n.n1) 24 n.n2) 32 counter) 0 40

/-- The whitened output `o`: digest bytes 0 to 7, little-endian (42_draw.md R157, R158). -/
def whiten (d : DigestSel) (n : NewWords) (counter : Word) : Word :=
  fromLE64 ((h256 d (whiteningBuffer n counter)).toList.take 8)

/-- The new words the next draw of a state computes (42_draw.md R150, part 1). -/
def drawWords (s : State) : NewWords := xs s.cfg.xsMode s.s0 s.s1 s.s2 s.s3

/-- The value the next draw of a state yields (42_draw.md R150, part 2). -/
def drawOut (s : State) : Word := whiten s.cfg.digest (drawWords s) s.counter

/-- `draw()`: the state after one draw, whose `out` is the value it yields (42_draw.md R150, R159). -/
def draw (s : State) : State :=
  { s with
    s0 := (drawWords s).n0 ^^^ drawOut s
    s1 := (drawWords s).n1
    s2 := (drawWords s).n2
    s3 := (drawWords s).n3
    counter := s.counter + ctrInc
    out := drawOut s }

/-- The state after `k` draws. -/
def drawN : Nat → State → State
  | 0, s => s
  | k + 1, s => drawN k (draw s)

/-- NEXT once the core is seeded: one draw, returned whole (42_draw.md R160). -/
def nextSeeded (s : State) : State := respond .ok (le64 (drawOut s)) (draw s)

/-- NEXT (42_draw.md R160). -/
def execNext (s : State) : Host.Outcome State Fault Refusal := .next (whenSeeded nextSeeded s)

end Sys2Proof.Machine
end

