-- ==== Sys2Proof/Machine/Derived.lean ====
section
/-!
DEFINITION. Machine/Derived.lean: RANDOM, RANDINT, RANDBYTES (43_derived.md). RANDINT makes one draw a step and keeps
its working values in the in-flight record between draws (10_state.md R47; assumption log 5), so that no bound on the
number of its draws is assumed (43_derived.md R189).
-/

namespace Sys2Proof.Machine

/-- RANDOM once the core is seeded (43_derived.md R180). -/
def randomSeeded (s : State) : State := respond .ok (le64 (randomBits (drawOut s))) (draw s)

/-- RANDOM (43_derived.md R180). -/
def execRandom (s : State) : Host.Outcome State Fault Refusal := .next (whenSeeded randomSeeded s)

/-- One turn of RANDINT's loop: draw; below `limit` the command ends with its response, else the state has advanced
and the loop goes on at the next step (43_derived.md R186, R189). -/
def randintTurn (w : RandintWork) (s : State) : State :=
  if (drawOut s).toNat < w.limit then
    respond .ok (le64 (toU64 (randintResult w (drawOut s)))) { draw s with inflight := none }
  else { draw s with inflight := some w }

/-- RANDINT once the core is seeded: the range is checked before any draw (43_derived.md R186). -/
def randintSeeded (a b : Int) (s : State) : State :=
  if b < a then raiseError .invalidRange s else randintTurn (randintWork a b) s

/-- RANDINT (43_derived.md R186): its checks and the first turn of its loop. -/
def execRandint (a b : Word) (s : State) : Host.Outcome State Fault Refusal :=
  .next (whenSeeded (randintSeeded (boundOperand a) (boundOperand b)) s)

/-- How many draws RANDBYTES makes: `ceil(n / 8)` (43_derived.md R196). -/
def drawsFor (n : Nat) : Nat := (n + 7) / 8

/-- The bytes of the next `k` draws, eight a draw, little-endian (43_derived.md R195). -/
def drawBytes : Nat → State → List Byte
  | 0, _ => []
  | k + 1, s => le64 (drawOut s) ++ drawBytes k (draw s)

/-- RANDBYTES once the core is seeded: the loop of R195, and the payload cut to `n` bytes. -/
def randbytesSeeded (n : Nat) (s : State) : State :=
  respond .ok ((drawBytes (drawsFor n) s).take n) (drawN (drawsFor n) s)

/-- RANDBYTES (43_derived.md R195). -/
def execRandbytes (n : Word) (s : State) : Host.Outcome State Fault Refusal :=
  .next (whenSeeded (randbytesSeeded (countOperand n)) s)

end Sys2Proof.Machine
end

