-- ==== Sys2Proof/Machine/Inspect.lean ====
section
/-!
DEFINITION. Machine/Inspect.lean: the read-out map and RDREG (10_state.md R44, 44_inspect.md).
-/

namespace Sys2Proof.Machine

/-- `REG[i]` for `i` in 0..7; no register for a reserved index (10_state.md R44). -/
def readReg (i : Nat) (s : State) : Option Word :=
  match i with
  | 0 => some s.s0
  | 1 => some s.s1
  | 2 => some s.s2
  | 3 => some s.s3
  | 4 => some s.counter
  | 5 => some s.seed
  | 6 => some (statusView s)
  | 7 => some s.out
  | _ => none

/-- The registers that hold a value only once the core is seeded: indices 0 to 5 (10_state.md R44). -/
def needsSeeded (i : Nat) : Bool := decide (i ≤ 5)

/-- RDREG: reserved index first, then the `seeded` requirement (44_inspect.md R210, R213). -/
def rdregState (i : Nat) (s : State) : State :=
  match readReg i s with
  | none => raiseError .illegal s
  | some v => if needsSeeded i && !s.seeded then raiseError .unseeded s else respond .ok (le64 v) s

/-- RDREG (44_inspect.md R210). -/
def execRdreg (i : Word) (s : State) : Host.Outcome State Fault Refusal := .next (rdregState (indexOperand i) s)

end Sys2Proof.Machine
end

