-- ==== Sys2Proof/Machine/Mixer.lean ====
section
/-!
DEFINITION. Machine/Mixer.lean: the MIX64 pipeline, one definition a stage (40_mixer.md R110).
-/

namespace Sys2Proof

/-- Stage ADD: `z0 = x +64 MIX_GAMMA` (40_mixer.md R110). -/
def mixAdd (p : MixParams) (x : Word) : Word := x + p.gamma

/-- An xor-shift stage: `z ^ (z >> r)` (40_mixer.md R110). -/
def xorShift (r : Nat) (z : Word) : Word := z ^^^ (z >>> r)

/-- A multiplication stage: `a *64 m` (40_mixer.md R110). -/
def mixMul (m a : Word) : Word := a * m

/-- `MIX64(x)`: ADD, XS1, MUL1, XS2, MUL2, XS3 (40_mixer.md R110). -/
def mix64 (p : MixParams) (x : Word) : Word :=
  xorShift p.r3 (mixMul p.m2 (xorShift p.r2 (mixMul p.m1 (xorShift p.r1 (mixAdd p x)))))

/-- State word `i` of the seed `k`: `MIX64(MIX64(k) +64 (i+1))` (41_seeding.md R131, 10_state.md R51). -/
def seedWord (p : MixParams) (k : Word) (i : Nat) : Word := mix64 p (mix64 p k + BitVec.ofNat 64 (i + 1))

end Sys2Proof
end

