-- ==== Sys2Proof/Machine/Seeding.lean ====
section
/-!
DEFINITION. Machine/Seeding.lean: SEEDPROC and the commands SEED, SEEDE, RESEED (41_seeding.md).
-/

namespace Sys2Proof.Machine

/-- `SEEDPROC(k)`: all eight architectural registers at once, none read (41_seeding.md R131, R133). -/
def seedProc (k : Word) (s : State) : State :=
  { s with
    seed := k
    s0 := seedWord s.cfg.mix k 0
    s1 := seedWord s.cfg.mix k 1
    s2 := seedWord s.cfg.mix k 2
    s3 := seedWord s.cfg.mix k 3
    counter := 1
    out := 0
    seeded := true }

/-- SEED (41_seeding.md R132). -/
def execSeed (k : Word) (s : State) : Host.Outcome State Fault Refusal :=
  .next (respond .ok [] (seedProc k s))

/-- SEEDE (41_seeding.md R134): the seed is one entropy reply, a free input of the step (R135). -/
def execSeede (s : State) : Host.Outcome State Fault Refusal :=
  .next (respond .ok [] (seedProc (entropySeed (entropyReply s)) (dropEntropy s)))

/-- RESEED (41_seeding.md R136): the full re-derivation the source assumes (R137). -/
def execReseed (k : Word) (s : State) : Host.Outcome State Fault Refusal :=
  .next (respond .ok [] (seedProc k s))

end Sys2Proof.Machine
end

