-- ==== Sys2Proof/Syntax.lean ====
section
/-!
DEFINITION. Syntax.lean: the eight commands (30_encoding.md R86), with the operands each uses, taken whole (R82).
Operand fields a command does not use are ignored (R83), so they have no place here.
-/

namespace Sys2Proof

/-- The commands of spec/opcode_table.json, one constructor a row. -/
inductive Instr where
  /-- `0x01` SEED (41_seeding.md R132). -/
  | seed (k : Word)
  /-- `0x02` SEEDE (41_seeding.md R134). -/
  | seede
  /-- `0x03` RESEED (41_seeding.md R136). -/
  | reseed (k : Word)
  /-- `0x04` NEXT (42_draw.md R160). -/
  | next
  /-- `0x05` RANDOM (43_derived.md R180). -/
  | random
  /-- `0x06` RANDINT (43_derived.md R186): the 64-bit patterns of the bounds. -/
  | randint (a b : Word)
  /-- `0x07` RANDBYTES (43_derived.md R195): the unsigned count. -/
  | randbytes (n : Word)
  /-- `0x08` RDREG (44_inspect.md R210): the index, all 64 bits. -/
  | rdreg (i : Word)
  deriving DecidableEq, Repr

end Sys2Proof
end

