-- ==== Sys2Proof/Machine/Dispatch.lean ====
section
/-!
DEFINITION. Machine/Dispatch.lean: one arm for each command (30_encoding.md R86).
-/

namespace Sys2Proof.Machine

def exec (i : Instr) (s : State) : Host.Outcome State Fault Refusal :=
  match i with
  | .seed k => Sys2Proof.Machine.execSeed k s
  | .seede => Sys2Proof.Machine.execSeede s
  | .reseed k => Sys2Proof.Machine.execReseed k s
  | .next => Sys2Proof.Machine.execNext s
  | .random => Sys2Proof.Machine.execRandom s
  | .randint a b => Sys2Proof.Machine.execRandint a b s
  | .randbytes n => Sys2Proof.Machine.execRandbytes n s
  | .rdreg x => Sys2Proof.Machine.execRdreg x s

end Sys2Proof.Machine
end

