-- ==== Sys2Proof/WellFormed.lean ====
section
/-!
DEFINITION. WellFormed.lean: which commands are legal in a given build: the opcode is not reserved there
(30_encoding.md R92) and an RDREG index is not reserved (10_state.md R44).
-/

namespace Sys2Proof

/-- The build has this command: RANDOM, RANDINT, RANDBYTES need `HAS_DERIVED`, RDREG needs `HAS_RDREG`
(00_scope.md R8, R13; 30_encoding.md R92). -/
def Instr.present (c : Config) : Instr → Bool
  | .seed _ => true
  | .seede => true
  | .reseed _ => true
  | .next => true
  | .random => c.hasDerived
  | .randint _ _ => c.hasDerived
  | .randbytes _ => c.hasDerived
  | .rdreg _ => c.hasRdreg

/-- An RDREG index is 0 to 7 (10_state.md R44); the other commands have no reserved operand. -/
def Instr.indexLegal : Instr → Bool
  | .seed _ => true
  | .seede => true
  | .reseed _ => true
  | .next => true
  | .random => true
  | .randint _ _ => true
  | .randbytes _ => true
  | .rdreg i => decide (i.toNat < 8)

/-- A command that is not illegal in the build `c` (30_encoding.md R92). -/
def Instr.wellFormed (c : Config) (i : Instr) : Bool := i.present c && i.indexLegal

end Sys2Proof
end

