-- ==== Sys2Proof/Decode.lean ====
section
/-!
DEFINITION. Decode.lean: command words of format C17 to commands and back (30_encoding.md R81 to R94).
Decoding is total: a command, or an error that names why the word is none (R94).
-/

namespace Sys2Proof

/-- Why a word or a byte string is no command (30_encoding.md R92, R84). -/
inductive DecodeError where
  /-- Opcode `0x00` or `0x09` to `0xFF`. -/
  | reservedOpcode (op : Byte)
  /-- `0x05`, `0x06`, `0x07` in a build without `HAS_DERIVED`, `0x08` in one without `HAS_RDREG`. -/
  | absentGroup (op : Byte)
  /-- Fewer than the 17 bytes every command has. -/
  | tooShort (len : Nat)
  deriving DecidableEq, Repr

/-- `OP = CW[7:0]` (30_encoding.md R81). -/
def opField (cw : CmdWord) : Byte := cw.extractLsb' 0 8

/-- `A = CW[71:8]` (30_encoding.md R81). -/
def aField (cw : CmdWord) : Word := cw.extractLsb' 8 64

/-- `B = CW[135:72]` (30_encoding.md R81). -/
def bField (cw : CmdWord) : Word := cw.extractLsb' 72 64

/-- The word with the three fields `{B, A, OP}` (30_encoding.md R81). -/
def packWord (op : Byte) (a b : Word) : CmdWord := (b ++ a) ++ op

/-- The opcode map (30_encoding.md R86): the command an opcode selects, with the operands it uses. -/
def decodeOp (op : Byte) (a b : Word) : Option Instr :=
  match op.toNat with
  | 0x01 => some (.seed a)
  | 0x02 => some .seede
  | 0x03 => some (.reseed a)
  | 0x04 => some .next
  | 0x05 => some .random
  | 0x06 => some (.randint a b)
  | 0x07 => some (.randbytes a)
  | 0x08 => some (.rdreg a)
  | _ => none

/-- Decode one command word in the build `c` (30_encoding.md R86, R92, R94). An RDREG with a reserved index is
decoded, and is refused as Illegal by its meaning (44_inspect.md R210). -/
def decode (c : Config) (cw : CmdWord) : Except DecodeError Instr :=
  match decodeOp (opField cw) (aField cw) (bField cw) with
  | none => .error (.reservedOpcode (opField cw))
  | some i => if i.present c then .ok i else .error (.absentGroup (opField cw))

/-- The word of 17 bytes, byte `i` at bits `8i+7:8i` (30_encoding.md R81). -/
def wordOfBytes (bs : List Byte) : CmdWord := BitVec.ofNat 136 (fromLE (bs.take 17))

/-- Decode the first command of a byte string and give the rest; every command is 17 bytes (30_encoding.md R84). -/
def decodeBytes (c : Config) (bs : List Byte) : Except DecodeError (Instr × List Byte) :=
  if bs.length < 17 then .error (.tooShort bs.length)
  else match decode c (wordOfBytes bs) with
    | .ok i => .ok (i, bs.drop 17)
    | .error e => .error e

/-- The opcode of a command (30_encoding.md R86). -/
def Instr.opcode : Instr → Byte
  | .seed _ => 0x01
  | .seede => 0x02
  | .reseed _ => 0x03
  | .next => 0x04
  | .random => 0x05
  | .randint _ _ => 0x06
  | .randbytes _ => 0x07
  | .rdreg _ => 0x08

/-- The operand field `A` of a command, zero where it uses none (30_encoding.md R83, R86, R100). -/
def Instr.aOperand : Instr → Word
  | .seed k => k
  | .seede => 0
  | .reseed k => k
  | .next => 0
  | .random => 0
  | .randint a _ => a
  | .randbytes n => n
  | .rdreg i => i

/-- The operand field `B` of a command, zero where it uses none (30_encoding.md R83, R86, R100). -/
def Instr.bOperand : Instr → Word
  | .seed _ => 0
  | .seede => 0
  | .reseed _ => 0
  | .next => 0
  | .random => 0
  | .randint _ b => b
  | .randbytes _ => 0
  | .rdreg _ => 0

/-- The command word of a command; unused fields assemble to zero (30_encoding.md R81, R100). -/
def encode (i : Instr) : CmdWord := packWord i.opcode i.aOperand i.bOperand

/-- The 17 bytes of a command word, in transmission order (30_encoding.md R81). -/
def bytesOfWord (cw : CmdWord) : List Byte := leBytes 17 cw

/-- The 17 bytes of a command, in transmission order (30_encoding.md R102). -/
def encodeBytes (i : Instr) : List Byte := bytesOfWord (encode i)

/-- What the decoder of the default build reads from the word whose low `nbits` bits are those of `w` and whose other
bits are zero, laid out as its 17 bytes. -/
def decodeTableWord (nbits w : Nat) : Option Instr :=
  match decodeBytes buildConfig (bytesOfWord (BitVec.ofNat 136 (w % 2 ^ nbits))) with
  | .ok (i, _) => some i
  | .error _ => none

end Sys2Proof
end

