-- ==== Sys2Proof/Machine/Fetch.lean ====
section
/-!
DEFINITION. Machine/Fetch.lean: what the core does next: nothing, a reset, another draw of the RANDINT in progress, or
the next command (20_memory.md R71, 70_reset_and_hazards.md R271, R280).
-/

namespace Sys2Proof.Machine

/-- What the next step is to do, and the state to do it in. -/
inductive Fetched where
  /-- No command and none in progress (60_exceptions.md R262). -/
  | idle
  /-- A reset taken from the input (70_reset_and_hazards.md R271). -/
  | reset (s : State)
  /-- The RANDINT in progress draws again; commands wait (70_reset_and_hazards.md R280). -/
  | resume (w : RandintWork) (s : State)
  /-- A command word that is no command of this build (30_encoding.md R92). -/
  | illegal (s : State)
  /-- A command (30_encoding.md R94). -/
  | run (i : Instr) (s : State)
  deriving DecidableEq, Repr

/-- Take the next event that the core can take now. -/
def fetch (s : State) : Fetched :=
  match s.inflight, s.cmdIn with
  | some _, .resetNow :: rest => .reset { s with cmdIn := rest }
  | some w, _ => .resume w s
  | none, [] => .idle
  | none, .resetIdle :: rest => .reset { s with cmdIn := rest }
  | none, .resetNow :: rest => .reset { s with cmdIn := rest }
  | none, .command cw :: rest =>
    match decode s.cfg cw with
    | .ok i => .run i { s with cmdIn := rest }
    | .error _ => .illegal { s with cmdIn := rest }

/-- The core is idle: no command in progress and none waiting (70_reset_and_hazards.md R284). -/
def State.idle (s : State) : Bool := s.inflight.isNone && s.cmdIn.isEmpty

end Sys2Proof.Machine
end

