-- ==== Sys2Proof/Machine/Step.lean ====
section
/-!
DEFINITION. Machine/Step.lean: one step of the core: one event taken from the host, or one more draw of a RANDINT in
progress (70_reset_and_hazards.md R280; assumption log 5).
-/

namespace Sys2Proof.Machine

/-- One step. -/
def step (s : State) : Host.Outcome State Fault Refusal :=
  match fetch s with
  | .idle => .next s
  | .reset t => .next (applyReset t)
  | .resume w t => .next (randintTurn w t)
  | .illegal t => .next (raiseError .illegal t)
  | .run i t => exec i t

/-- `s` with one command word put first in the host's queue and no command in progress: the next step takes it. The
word's low `nbits` bits are those of `w`, its other bits are zero. -/
def State.withFetchWord (s : State) (nbits w : Nat) : State :=
  { s with inflight := none, cmdIn := .command (BitVec.ofNat 136 (w % 2 ^ nbits)) :: s.cmdIn }

end Sys2Proof.Machine
end

