-- ==== Sys2Proof/Machine/Text.lean ====
section
/-!
DEFINITION. Machine/Text.lean: the text form of a command and the two pseudo-commands (30_encoding.md R100, R101).
A notation only: the core never sees text. Where R100 leaves the text open, assumption log 7 says what is taken.
-/

namespace Sys2Proof.Text

/-- The value of a digit in the given base, 10 or 16; hexadecimal letters in either case. -/
def digit (base : Nat) (c : Char) : Option Nat :=
  let v := c.toNat
  if 48 ≤ v ∧ v ≤ 57 then some (v - 48)
  else if base = 16 ∧ 65 ≤ v ∧ v ≤ 70 then some (v - 55)
  else if base = 16 ∧ 97 ≤ v ∧ v ≤ 102 then some (v - 87)
  else none

/-- The number a digit string continues, from the value `acc` of the digits before it. -/
def digits (base : Nat) : List Char → Nat → Option Nat
  | [], acc => some acc
  | c :: cs, acc =>
    match digit base c with
    | some d => digits base cs (base * acc + d)
    | none => none

/-- A decimal integer without a sign: at least one digit. -/
def decimal (cs : List Char) : Option Nat := if cs = [] then none else digits 10 cs 0

/-- An operand: a decimal integer, with a leading `-` only where `signed`, or `0x` and 1 to 16 hexadecimal digits
(30_encoding.md R100); the value must have a 64-bit pattern (00_scope.md R19). -/
def operand (signed : Bool) (cs : List Char) : Option Word :=
  match cs with
  | '0' :: 'x' :: hs =>
    if hs.length = 0 ∨ 16 < hs.length then none else (digits 16 hs 0).map (BitVec.ofNat 64)
  | '-' :: ds =>
    match signed, decimal ds with
    | true, some n => if n ≤ 2 ^ 63 then some (toU64 (-(n : Int))) else none
    | _, _ => none
  | ds =>
    match decimal ds with
    | some n => if n < 2 ^ 64 then some (BitVec.ofNat 64 n) else none
    | none => none

/-- A blank within a line. -/
def blankChar (c : Char) : Bool := c.toNat == 32 || c.toNat == 9

/-- A line without the blanks at its two ends. -/
def trim (cs : List Char) : List Char := ((cs.dropWhile blankChar).reverse.dropWhile blankChar).reverse

/-- A line up to its comment (30_encoding.md R100). -/
def dropComment (cs : List Char) : List Char := cs.takeWhile fun c => c.toNat != 35

/-- The operand strings of a line's rest: none when it is blank, else the parts between commas. -/
def operands (cs : List Char) : List (List Char) :=
  if trim cs = [] then [] else (cs.splitOn ',').map trim

/-- `RDREG name` (30_encoding.md R101, 10_state.md R44). -/
def regName (cs : List Char) : Option Word :=
  if cs = ['s', '0'] then some 0
  else if cs = ['s', '1'] then some 1
  else if cs = ['s', '2'] then some 2
  else if cs = ['s', '3'] then some 3
  else if cs = ['c', 'o', 'u', 'n', 't', 'e', 'r'] then some 4
  else if cs = ['s', 'e', 'e', 'd'] then some 5
  else if cs = ['s', 't', 'a', 't', 'u', 's'] then some 6
  else if cs = ['o', 'u', 't'] then some 7
  else none

/-- A command without operands. -/
def noOperand (i : Instr) : List (List Char) → Option Instr
  | [] => some i
  | _ :: _ => none

/-- A command with one operand, read by `f`. -/
def oneOperand (mk : Word → Instr) (f : List Char → Option Word) : List (List Char) → Option Instr
  | [] => none
  | [x] => (f x).map mk
  | _ :: _ :: _ => none

/-- RANDINT's two operands, which may be negative (30_encoding.md R100). -/
def boundOperands : List (List Char) → Option Instr
  | [] => none
  | [_] => none
  | [x, y] => (operand true x).bind fun a => (operand true y).map fun b => .randint a b
  | _ :: _ :: _ :: _ => none

/-- `SEED_OR_RANDOM` with an operand is SEED, without one SEEDE (30_encoding.md R101). -/
def optionalSeed (ops : List (List Char)) : Option Instr :=
  (noOperand .seede ops).or (oneOperand .seed (operand false) ops)

/-- The command a mnemonic and its operand strings stand for, pseudo-commands expanded (30_encoding.md R100, R101). -/
def command (mnemonic : List Char) (ops : List (List Char)) : Option Instr :=
  if mnemonic = "SEED".toList then oneOperand .seed (operand false) ops
  else if mnemonic = "SEEDE".toList then noOperand .seede ops
  else if mnemonic = "RESEED".toList then oneOperand .reseed (operand false) ops
  else if mnemonic = "NEXT".toList then noOperand .next ops
  else if mnemonic = "RANDOM".toList then noOperand .random ops
  else if mnemonic = "RANDINT".toList then boundOperands ops
  else if mnemonic = "RANDBYTES".toList then oneOperand .randbytes (operand false) ops
  else if mnemonic = "RDREG".toList then oneOperand .rdreg (fun x => (regName x).or (operand false x)) ops
  else if mnemonic = "SEED_OR_RANDOM".toList then optionalSeed ops
  else none

/-- One line: `some none` for a line with no command, `some (some i)` for a command, `none` for anything else
(30_encoding.md R100). -/
def parseLine (line : List Char) : Option (Option Instr) :=
  let cs := trim (dropComment line)
  if cs = [] then some none
  else
    (command (cs.takeWhile fun c => !blankChar c) (operands (cs.dropWhile fun c => !blankChar c))).map some

/-- The 17 bytes of a one-command line (30_encoding.md R102). -/
def assemble (line : List Char) : Option (List Byte) :=
  match parseLine line with
  | some (some i) => some (encodeBytes i)
  | _ => none

end Sys2Proof.Text
end

