-- ==== Sys2Proof/Safety.lean ====
section
/-!
DEFINITION. Safety.lean: the words claims are stated in: when two states agree (10_state.md R36), the invariant of the
machine, the value of a binary64 pattern (43_derived.md R181), and which commands need a seeded core (60_exceptions.md
R243).
-/

namespace Sys2Proof.Machine

/-- Equality of architectural states: the six registers that hold no value while `seeded` is 0 are not compared then
(10_state.md R36). -/
def State.archEq (s t : State) : Prop :=
  s.seeded = t.seeded ∧ s.out = t.out ∧
    (s.seeded = true → s.seed = t.seed ∧ s.s0 = t.s0 ∧ s.s1 = t.s1 ∧ s.s2 = t.s2 ∧ s.s3 = t.s3 ∧ s.counter = t.counter)

/-- The two states have the same build, the same command in progress, the same input and the same output so far. -/
def State.sameInterfaces (s t : State) : Prop :=
  s.cfg = t.cfg ∧ s.inflight = t.inflight ∧ s.cmdIn = t.cmdIn ∧ s.rspOut = t.rspOut ∧ s.entIn = t.entIn ∧
    s.entDrawn = t.entDrawn ∧ s.epoch = t.epoch

/-- The working values belong to a range of 64-bit two's-complement bounds (43_derived.md R187). -/
abbrev RandintWork.valid (w : RandintWork) : Prop :=
  1 ≤ w.span ∧ w.span ≤ 2 ^ 64 ∧ w.limit = limitOf w.span ∧ -(2 ^ 63) ≤ w.a ∧ w.a + w.span ≤ 2 ^ 63

/-- A command in progress runs on a seeded core and over a valid range. -/
def State.inflightOk (s : State) : Bool :=
  match s.inflight with
  | none => true
  | some w => s.seeded && decide w.valid

/-- The machine's invariant: an admissible build (00_scope.md R10), a sound command in progress (10_state.md R47), and
`out` still 0 while nothing has been seeded (10_state.md R35, R50). -/
abbrev State.Inv (s : State) : Prop :=
  s.cfg.wf = true ∧ s.inflightOk = true ∧ (s.seeded = false → s.out = 0)

/-- The commands that answer `ERR_UNSEEDED` while `seeded` is 0 (60_exceptions.md R243). -/
def needsSeed : Instr → Bool
  | .seed _ => false
  | .seede => false
  | .reseed _ => false
  | .next => true
  | .random => true
  | .randint _ _ => true
  | .randbytes _ => true
  | .rdreg i => decide (i.toNat ≤ 5)

/-- The seeding commands (00_scope.md R22). -/
def isSeeding : Instr → Bool
  | .seed _ => true
  | .seede => true
  | .reseed _ => true
  | .next => false
  | .random => false
  | .randint _ _ => false
  | .randbytes _ => false
  | .rdreg _ => false

/-- The value of a binary64 pattern that is +0.0 or a normal number: `(-1)^sign * 1.frac * 2^(expo - 1023)`
(43_derived.md R181). -/
def f64Value (w : Word) : ℚ :=
  if w = 0 then 0
  else (if w.getLsbD 63 then -1 else 1) * (1 + ((w.extractLsb' 0 52).toNat : ℚ) / 2 ^ 52)
    * 2 ^ (((w.extractLsb' 52 11).toNat : ℤ) - 1023)

/-- The state the worked examples of 42_draw.md to 44_inspect.md start from: `SEED k` after reset on a build with the
reference constants, `H256` = SHA-256 and `XS_MODE = PARALLEL`. -/
def exampleState (k : Word) : State :=
  seedProc k { State.reset with cfg := { buildConfig with digest := .sha256 } }

/-- The first eight digest bytes of a state's next draw (42_draw.md R157, R158). -/
def drawDigest (s : State) : List Byte :=
  (h256 s.cfg.digest (whiteningBuffer (drawWords s) s.counter)).toList.take 8

/-- The payload of RANDBYTES `n` (43_derived.md R195). -/
def randbytesPayload (n : Nat) (s : State) : List Byte := (drawBytes (drawsFor n) s).take n

/-- No reset is the next event the core would take. -/
def noResetNext (s : State) : Prop := ∀ rest, s.cmdIn ≠ .resetNow :: rest ∧ s.cmdIn ≠ .resetIdle :: rest

end Sys2Proof.Machine
end

