-- ==== Sys2Proof/Certificates/Slice0/Obligations.lean ====
section
/-!
DEFINITION. Obligations.lean: the statements for the provers. Each docstring names the rule of spec/ it formalises, or
says what of the model it rests on. There are no programs here: every statement is about the machine.
-/

open Sys2Proof Sys2Proof.Machine

/-! ## Encoding -/

/-- 30_encoding.md R102: the nine worked encodings, from text to bytes and from bytes to the command. -/
def Obligations.WorkedEncodings : Prop :=
  (Text.assemble "SEED 0xDEADBEEFCAFEBABE".toList
      = some [0x01, 0xBE, 0xBA, 0xFE, 0xCA, 0xEF, 0xBE, 0xAD, 0xDE, 0, 0, 0, 0, 0, 0, 0, 0]) ∧
  (Text.assemble "SEEDE".toList = some [0x02, 0, 0, 0, 0, 0, 0, 0, 0, 0, 0, 0, 0, 0, 0, 0, 0]) ∧
  (Text.assemble "RESEED 42".toList = some [0x03, 0x2A, 0, 0, 0, 0, 0, 0, 0, 0, 0, 0, 0, 0, 0, 0, 0]) ∧
  (Text.assemble "NEXT".toList = some [0x04, 0, 0, 0, 0, 0, 0, 0, 0, 0, 0, 0, 0, 0, 0, 0, 0]) ∧
  (Text.assemble "RANDOM".toList = some [0x05, 0, 0, 0, 0, 0, 0, 0, 0, 0, 0, 0, 0, 0, 0, 0, 0]) ∧
  (Text.assemble "RANDINT -3, 3".toList
      = some [0x06, 0xFD, 0xFF, 0xFF, 0xFF, 0xFF, 0xFF, 0xFF, 0xFF, 0x03, 0, 0, 0, 0, 0, 0, 0]) ∧
  (Text.assemble "RANDINT 5, 3".toList = some [0x06, 0x05, 0, 0, 0, 0, 0, 0, 0, 0x03, 0, 0, 0, 0, 0, 0, 0]) ∧
  (Text.assemble "RANDBYTES 20".toList = some [0x07, 0x14, 0, 0, 0, 0, 0, 0, 0, 0, 0, 0, 0, 0, 0, 0, 0]) ∧
  (Text.assemble "RDREG 4".toList = some [0x08, 0x04, 0, 0, 0, 0, 0, 0, 0, 0, 0, 0, 0, 0, 0, 0, 0]) ∧
  decodeBytes buildConfig [0x01, 0xBE, 0xBA, 0xFE, 0xCA, 0xEF, 0xBE, 0xAD, 0xDE, 0, 0, 0, 0, 0, 0, 0, 0]
      = .ok (.seed 0xDEADBEEFCAFEBABE, []) ∧
  decodeBytes buildConfig [0x02, 0, 0, 0, 0, 0, 0, 0, 0, 0, 0, 0, 0, 0, 0, 0, 0] = .ok (.seede, []) ∧
  decodeBytes buildConfig [0x03, 0x2A, 0, 0, 0, 0, 0, 0, 0, 0, 0, 0, 0, 0, 0, 0, 0] = .ok (.reseed 42, []) ∧
  decodeBytes buildConfig [0x04, 0, 0, 0, 0, 0, 0, 0, 0, 0, 0, 0, 0, 0, 0, 0, 0] = .ok (.next, []) ∧
  decodeBytes buildConfig [0x05, 0, 0, 0, 0, 0, 0, 0, 0, 0, 0, 0, 0, 0, 0, 0, 0] = .ok (.random, []) ∧
  decodeBytes buildConfig [0x06, 0xFD, 0xFF, 0xFF, 0xFF, 0xFF, 0xFF, 0xFF, 0xFF, 0x03, 0, 0, 0, 0, 0, 0, 0]
      = .ok (.randint (-3) 3, []) ∧
  decodeBytes buildConfig [0x06, 0x05, 0, 0, 0, 0, 0, 0, 0, 0x03, 0, 0, 0, 0, 0, 0, 0] = .ok (.randint 5 3, []) ∧
  decodeBytes buildConfig [0x07, 0x14, 0, 0, 0, 0, 0, 0, 0, 0, 0, 0, 0, 0, 0, 0, 0] = .ok (.randbytes 20, []) ∧
  decodeBytes buildConfig [0x08, 0x04, 0, 0, 0, 0, 0, 0, 0, 0, 0, 0, 0, 0, 0, 0, 0] = .ok (.rdreg 4, []) ∧
  encode (.seed 0xDEADBEEFCAFEBABE) = (0x0000000000000000#64 ++ 0xDEADBEEFCAFEBABE#64) ++ 0x01#8

/-- 30_encoding.md sections 2 and 3: decoding what is encoded gives the command back, as a word and as the first 17
bytes of any byte string, for every command the build has and every operand. -/
def Obligations.DecodeInvertsEncode : Prop :=
  ∀ (c : Config) (i : Instr) (rest : List Byte), i.present c = true →
    decode c (encode i) = .ok i ∧ decodeBytes c (encodeBytes i ++ rest) = .ok (i, rest)

/-- 30_encoding.md R81: the three fields, and the bytes of the word. -/
def Obligations.CommandWordFields : Prop :=
  (∀ cw : CmdWord, opField cw = cw.extractLsb' 0 8 ∧ aField cw = cw.extractLsb' 8 64 ∧
      bField cw = cw.extractLsb' 72 64 ∧ packWord (opField cw) (aField cw) (bField cw) = cw) ∧
  (∀ cw : CmdWord, (bytesOfWord cw).length = 17 ∧
      (∀ i, i < 17 → (bytesOfWord cw)[i]? = some (cw.extractLsb' (8 * i) 8)) ∧
      bytesOfWord cw = opField cw :: (le64 (aField cw) ++ le64 (bField cw)) ∧ wordOfBytes (bytesOfWord cw) = cw) ∧
  (∀ (op : Byte) (a b : Word), opField (packWord op a b) = op ∧ aField (packWord op a b) = a ∧
      bField (packWord op a b) = b)

/-- 30_encoding.md R86: the opcode map, selected by `CW & 0xFF` alone. -/
def Obligations.DecodeFollowsOpcodeMap : Prop :=
  ∀ (c : Config) (cw : CmdWord), decode c cw =
    if cw &&& 0xFF = 0x01 then .ok (.seed (aField cw))
    else if cw &&& 0xFF = 0x02 then .ok .seede
    else if cw &&& 0xFF = 0x03 then .ok (.reseed (aField cw))
    else if cw &&& 0xFF = 0x04 then .ok .next
    else if cw &&& 0xFF = 0x05 then if c.hasDerived then .ok .random else .error (.absentGroup 0x05)
    else if cw &&& 0xFF = 0x06 then
      if c.hasDerived then .ok (.randint (aField cw) (bField cw)) else .error (.absentGroup 0x06)
    else if cw &&& 0xFF = 0x07 then
      if c.hasDerived then .ok (.randbytes (aField cw)) else .error (.absentGroup 0x07)
    else if cw &&& 0xFF = 0x08 then if c.hasRdreg then .ok (.rdreg (aField cw)) else .error (.absentGroup 0x08)
    else .error (.reservedOpcode (opField cw))

/-- 30_encoding.md R83: a field a command does not use takes any value without effect, and is assembled as zero. -/
def Obligations.UnusedFieldsIgnored : Prop :=
  (∀ (c : Config) (op : Byte) (a b a' b' : Word), op = 0x02 ∨ op = 0x04 ∨ op = 0x05 →
      decode c (packWord op a b) = decode c (packWord op a' b')) ∧
  (∀ (c : Config) (op : Byte) (a b b' : Word), op = 0x01 ∨ op = 0x03 ∨ op = 0x07 ∨ op = 0x08 →
      decode c (packWord op a b) = decode c (packWord op a b')) ∧
  (∀ i : Instr, i = .seede ∨ i = .next ∨ i = .random → encode i = packWord i.opcode 0 0) ∧
  (∀ k : Word, encode (.seed k) = packWord 0x01 k 0 ∧ encode (.reseed k) = packWord 0x03 k 0 ∧
      encode (.randbytes k) = packWord 0x07 k 0 ∧ encode (.rdreg k) = packWord 0x08 k 0)

/-- 30_encoding.md R92 and 60_exceptions.md R244: a reserved opcode, and an RDREG with a reserved index, answer
`ERR_ILLEGAL` (0x03) with an empty payload and change nothing, seeded or not. -/
def Obligations.ReservedEncodingsAnswerIllegal : Prop :=
  Status.errIllegal.code = 0x03 ∧
  ∀ (s : State) (cw : CmdWord) (rest : List HostEvent), s.inflight = none → s.cmdIn = .command cw :: rest →
    (opField cw = 0x00 ∨ 9 ≤ (opField cw).toNat ∨
      (5 ≤ (opField cw).toNat ∧ (opField cw).toNat ≤ 7 ∧ s.cfg.hasDerived = false) ∨
      (opField cw = 0x08 ∧ s.cfg.hasRdreg = false) ∨ (opField cw = 0x08 ∧ 8 ≤ (aField cw).toNat)) →
    step s = .next { s with cmdIn := rest, rspOut := s.rspOut ++ [⟨.errIllegal, []⟩] }

/-- 30_encoding.md R101: the two pseudo-commands are their expansions, and there are no others. -/
def Obligations.PseudoCommandsExpand : Prop :=
  (∀ x, Text.command "SEED_OR_RANDOM".toList [x] = Text.command "SEED".toList [x]) ∧
  Text.command "SEED_OR_RANDOM".toList [] = Text.command "SEEDE".toList [] ∧
  Text.command "SEEDE".toList [] = some .seede ∧
  Text.parseLine "RDREG s0".toList = Text.parseLine "RDREG 0".toList ∧
  Text.parseLine "RDREG s1".toList = Text.parseLine "RDREG 1".toList ∧
  Text.parseLine "RDREG s2".toList = Text.parseLine "RDREG 2".toList ∧
  Text.parseLine "RDREG s3".toList = Text.parseLine "RDREG 3".toList ∧
  Text.parseLine "RDREG counter".toList = Text.parseLine "RDREG 4".toList ∧
  Text.parseLine "RDREG seed".toList = Text.parseLine "RDREG 5".toList ∧
  Text.parseLine "RDREG status".toList = Text.parseLine "RDREG 6".toList ∧
  Text.parseLine "RDREG out".toList = Text.parseLine "RDREG 7".toList ∧
  Text.parseLine "RDREG 7".toList = some (some (.rdreg 7)) ∧
  (∀ (mnemonic : List Char) (ops : List (List Char)), Text.command mnemonic ops ≠ none →
    mnemonic ∈ ["SEED", "SEEDE", "RESEED", "NEXT", "RANDOM", "RANDINT", "RANDBYTES", "RDREG",
      "SEED_OR_RANDOM"].map String.toList) ∧
  (∀ name : List Char, Text.regName name ≠ none →
    name ∈ ["s0", "s1", "s2", "s3", "counter", "seed", "status", "out"].map String.toList)

/-! ## Words, bytes, signed reading -/

/-- 00_scope.md R18: `le64` and `from_le64`. -/
def Obligations.LittleEndianBytes : Prop :=
  (∀ v : Word, (le64 v).length = 8 ∧ (∀ i, i < 8 → (le64 v)[i]? = some (v.extractLsb' (8 * i) 8)) ∧
      fromLE64 (le64 v) = v) ∧
  (∀ b : List Byte, b.length = 8 →
      (fromLE64 b).toNat = ∑ i ∈ Finset.range 8, (b.getD i 0).toNat * 2 ^ (8 * i) ∧ le64 (fromLE64 b) = b)

/-- 00_scope.md R19: `sint64` and `to_u64`. -/
def Obligations.SignedReading : Prop :=
  (∀ v : Word, (v.toNat < 2 ^ 63 → sint64 v = v.toNat) ∧ (2 ^ 63 ≤ v.toNat → sint64 v = (v.toNat : Int) - 2 ^ 64) ∧
      -(2 ^ 63) ≤ sint64 v ∧ sint64 v < 2 ^ 63 ∧ toU64 (sint64 v) = v) ∧
  (∀ z : Int, -(2 ^ 63) ≤ z → z < 2 ^ 64 → ((toU64 z).toNat : Int) = z % 2 ^ 64)

/-! ## The mixer -/

/-- 40_mixer.md R110: the six stages, and the function with the reference constants. -/
def Obligations.MixerStages : Prop :=
  (∀ (p : MixParams) (x : Word),
      let z0 := x + p.gamma
      let a1 := z0 ^^^ (z0 >>> p.r1)
      let z1 := a1 * p.m1
      let a2 := z1 ^^^ (z1 >>> p.r2)
      let z2 := a2 * p.m2
      let z5 := z2 ^^^ (z2 >>> p.r3)
      mix64 p x = z5) ∧
  (∀ x : Word,
      let z0 := x + 0x9E3779B97F4A7C15#64
      let z1 := (z0 ^^^ (z0 >>> 30)) * 0xBF58476D1CE4E5B9#64
      let z2 := (z1 ^^^ (z1 >>> 27)) * 0x94D049BB133111EB#64
      mix64 MixParams.reference x = z2 ^^^ (z2 >>> 31))

/-- 40_mixer.md R118: the worked values, every stage (z0, a1, z1, a2, z2, MIX64). -/
def Obligations.MixerWorkedValues : Prop :=
  let p := MixParams.reference
  let stages := fun x : Word =>
    [mixAdd p x, xorShift p.r1 (mixAdd p x), mixMul p.m1 (xorShift p.r1 (mixAdd p x)),
      xorShift p.r2 (mixMul p.m1 (xorShift p.r1 (mixAdd p x))),
      mixMul p.m2 (xorShift p.r2 (mixMul p.m1 (xorShift p.r1 (mixAdd p x)))), mix64 p x]
  stages 0x0000000000000000 = [0x9E3779B97F4A7C15, 0x9E3779BB07979AF0, 0x6F68261B57E7A770, 0x6F682616BAE3641A,
    0xE220A838BF5C9DDE, 0xE220A8397B1DCDAF] ∧
  stages 0x0000000000000001 = [0x9E3779B97F4A7C16, 0x9E3779BB07979AF3, 0xAD70FC62AE96589B, 0xAD70FC770089D4CE,
    0x910A2DEDAB16071A, 0x910A2DEC89025CC1] ∧
  stages 0xFFFFFFFFFFFFFFFF = [0x9E3779B97F4A7C14, 0x9E3779BB07979AF1, 0x2EC06D8874CC8D29, 0x2EC06D8DACC13C27,
    0xE4D97176D2D7CECD, 0xE4D971771B652C20] ∧
  stages 0xDEADBEEFCAFEBABE = [0x7CE538A94A4936D3, 0x7CE538A8B9DDD476, 0xF3DEDD3DE1741746, 0xF3DEDD239AAFB0FA,
    0x0D7D935617E20F7E, 0x0D7D93560D1929D2] ∧
  stages 0x61C8864680B583EB = [0, 0, 0, 0, 0, 0]

/-- 40_mixer.md R116: each stage, and so `MIX64`, is a bijection for every admissible choice of constants; how each
stage is undone; the reference inverses. -/
def Obligations.MixerIsBijective : Prop :=
  (∀ (p : MixParams), p.wf = true → Function.Bijective (mix64 p)) ∧
  (∀ (p : MixParams) (x : Word), mixAdd p x - p.gamma = x) ∧
  (∀ m : Word, m.getLsbD 0 = true → ∃ m' : Word, m * m' = 1 ∧ ∀ a, mixMul m' (mixMul m a) = a) ∧
  (∀ (r : Nat) (z : Word), 1 ≤ r →
      (List.range 64).foldl (fun acc j => acc ^^^ (xorShift r z >>> (j * r))) 0 = z) ∧
  MixParams.reference.m1 * 0x96DE1B173F119089 = 1 ∧ MixParams.reference.m2 * 0x319642B2D24D8EC3 = 1

/-- 40_mixer.md R115: the addition wraps; `2^64 - MIX_GAMMA` is the one argument with result 0, each later stage mapping
0 to 0; products keep their low 64 bits; the shift amounts lie in 1..63; zero is a legal argument. -/
def Obligations.MixerCornerCases : Prop :=
  (∀ p : MixParams, mixAdd p 0xFFFFFFFFFFFFFFFF = p.gamma - 1) ∧
  (∀ p : MixParams, mixAdd p (0 - p.gamma) = 0 ∧ mix64 p (0 - p.gamma) = 0) ∧
  (∀ (p : MixParams) (x : Word), p.wf = true → mix64 p x = 0 → x = 0 - p.gamma) ∧
  (0 - MixParams.reference.gamma = 0x61C8864680B583EB) ∧
  (∀ m a : Word, (mixMul m a).toNat = a.toNat * m.toNat % 2 ^ 64) ∧
  (∀ (r : Nat) (m : Word), xorShift r 0 = 0 ∧ mixMul m 0 = 0) ∧
  (∀ p : MixParams, p.wf = true → (1 ≤ p.r1 ∧ p.r1 ≤ 63) ∧ (1 ≤ p.r2 ∧ p.r2 ≤ 63) ∧ (1 ≤ p.r3 ∧ p.r3 ≤ 63)) ∧
  (∀ s : State, ∃ t, exec (.seed 0) s = .next t ∧ t.seeded = true ∧ t.seed = 0)

/-! ## Seeding -/

/-- 41_seeding.md R131 and R132, 10_state.md R51: SEED decodes, writes all eight registers together and nothing else
but its response, from every state; the rule's example. -/
def Obligations.SeedWritesWholeState : Prop :=
  (∀ (c : Config) (k b : Word), decode c (packWord 0x01 k b) = .ok (.seed k)) ∧
  (∀ (s : State) (k : Word),
      exec (.seed k) s = .next { s with
        seeded := true
        seed := k
        s0 := mix64 s.cfg.mix (mix64 s.cfg.mix k + 1)
        s1 := mix64 s.cfg.mix (mix64 s.cfg.mix k + 2)
        s2 := mix64 s.cfg.mix (mix64 s.cfg.mix k + 3)
        s3 := mix64 s.cfg.mix (mix64 s.cfg.mix k + 4)
        counter := 1
        out := 0
        rspOut := s.rspOut ++ [⟨.ok, []⟩] }) ∧
  (∀ (s : State) (k : Word), exec (.seed k) s = exec (.reseed k) s) ∧
  (mix64 MixParams.reference 0xDEADBEEFCAFEBABE = 0x0D7D93560D1929D2) ∧
  (∀ s : State, s.cfg.mix = MixParams.reference →
      ∃ t, exec (.seed 0xDEADBEEFCAFEBABE) s = .next t ∧ t.s0 = 0x3DD310F9CDF3BD6F ∧ t.s1 = 0xAB3113F20DB979E5 ∧
        t.s2 = 0x1CA0267D486C298F ∧ t.s3 = 0x96E7647450D943DC ∧ t.counter = 1 ∧ t.out = 0 ∧
        t.seed = 0xDEADBEEFCAFEBABE ∧ t.seeded = true ∧ (t.rspOut.getLast?.map Response.bytes) = some [0x00])

/-- 41_seeding.md section 3: SEEDE seeds with the little-endian value of one 8-byte entropy reply, whatever the reply.
Where the reply comes from is the model's choice (assumption log 3): one given in advance, else the opaque
`Config.entropyReply`, of which nothing is known. -/
def Obligations.SeedeSeedsFromOneReply : Prop :=
  (∀ (c : Config) (a b : Word), decode c (packWord 0x02 a b) = .ok .seede) ∧
  (∀ (s : State) (e : Vector Byte 8) (rest : List (Vector Byte 8)), s.entIn = e :: rest →
      exec .seede s = .next { seedProc (fromLE64 e.toList) s with entIn := rest, rspOut := s.rspOut ++ [⟨.ok, []⟩] }) ∧
  (∀ s : State, s.entIn = [] →
      exec .seede s = .next { seedProc (fromLE64 (Config.entropyReply s.entDrawn).toList) s with
        entDrawn := s.entDrawn + 1, rspOut := s.rspOut ++ [⟨.ok, []⟩] }) ∧
  (∀ s : State, s.cfg.mix = MixParams.reference → s.entIn = [#v[1, 2, 3, 4, 5, 6, 7, 8]] →
      ∃ t, exec .seede s = .next t ∧ t.seed = 0x0807060504030201 ∧ t.s0 = 0x5253B1642B0D6245 ∧
        t.s1 = 0xEFAA5DCB363DE193 ∧ t.s2 = 0x828B59E339BC146E ∧ t.s3 = 0x8B1E0830AF8F096A ∧ t.counter = 1)

/-- 41_seeding.md R136: RESEED is the full derivation, accepted seeded or not; the rule's example. -/
def Obligations.ReseedReplacesState : Prop :=
  (∀ (c : Config) (k b : Word), decode c (packWord 0x03 k b) = .ok (.reseed k)) ∧
  (∀ (s : State) (k : Word),
      exec (.reseed k) s = .next { s with
        seeded := true
        seed := k
        s0 := mix64 s.cfg.mix (mix64 s.cfg.mix k + 1)
        s1 := mix64 s.cfg.mix (mix64 s.cfg.mix k + 2)
        s2 := mix64 s.cfg.mix (mix64 s.cfg.mix k + 3)
        s3 := mix64 s.cfg.mix (mix64 s.cfg.mix k + 4)
        counter := 1
        out := 0
        rspOut := s.rspOut ++ [⟨.ok, []⟩] }) ∧
  (∀ (s : State) (k : Word), exec (.reseed k) s = exec (.seed k) s) ∧
  (mix64 MixParams.reference 0 = 0xE220A8397B1DCDAF) ∧
  (∀ s : State, s.cfg.mix = MixParams.reference →
      ∃ t, exec (.reseed 0) s = .next t ∧ t.s0 = 0x2A98F501AF37E97F ∧ t.s1 = 0x82876E1C4F0B438C ∧
        t.s2 = 0xF9BF111E3B410C7A ∧ t.s3 = 0x5EC65277C5A7D2F6 ∧ t.counter = 1 ∧ t.out = 0 ∧ t.seed = 0)

/-- 41_seeding.md R133: two seedings with one seed on one build leave all eight registers equal, whatever the two
states were, a state just reset among them. -/
def Obligations.SeedingForgetsThePast : Prop :=
  ∀ (s t : State) (k : Word), s.cfg = t.cfg →
    ∃ s' t', exec (.reseed k) s = .next s' ∧ exec (.seed k) t = .next t' ∧ s'.seeded = t'.seeded ∧
      s'.seed = t'.seed ∧ s'.s0 = t'.s0 ∧ s'.s1 = t'.s1 ∧ s'.s2 = t'.s2 ∧ s'.s3 = t'.s3 ∧
      s'.counter = t'.counter ∧ s'.out = t'.out

/-- 10_state.md section 2, 40_mixer.md section 2: right after a seeding the four words are four different values, for
every admissible choice of mixing constants and every seed. -/
def Obligations.SeededWordsDistinct : Prop :=
  ∀ (s t : State) (k : Word), s.cfg.wf = true → exec (.seed k) s = .next t →
    t.s0 ≠ t.s1 ∧ t.s0 ≠ t.s2 ∧ t.s0 ≠ t.s3 ∧ t.s1 ≠ t.s2 ∧ t.s1 ≠ t.s3 ∧ t.s2 ≠ t.s3

/-- 41_seeding.md section 4, 95_test_vectors.md S7: after RESEED k, whatever commands follow, for any number of steps,
the responses and the architectural state are those of a core seeded with k by SEED, whatever either core did before.
Both cores have the same input waiting. That RESEED is the full derivation is the source's own assumption (log 8). -/
def Obligations.ReseedIsolation : Prop :=
  ∀ (s t s₁ t₁ : State) (k : Word), s.cfg = t.cfg → s.inflight = t.inflight → s.cmdIn = t.cmdIn →
    s.entIn = t.entIn → s.entDrawn = t.entDrawn → s.epoch = t.epoch →
    exec (.reseed k) s = .next s₁ → exec (.seed k) t = .next t₁ →
    ∀ n : Nat, ∃ (s' t' : State) (rs : List Response),
      Host.Core.run Sys2Proof.core n s₁ = .next s' ∧ Host.Core.run Sys2Proof.core n t₁ = .next t' ∧
      s'.rspOut = s₁.rspOut ++ rs ∧ t'.rspOut = t₁.rspOut ++ rs ∧ s'.archEq t'

/-! ## The draw and NEXT -/

/-- 42_draw.md R152: `XS` under PARALLEL, the default. -/
def Obligations.TransitionParallel : Prop :=
  State.reset.cfg.xsMode = .parallel ∧ ∀ s0 s1 s2 s3 : Word, xs .parallel s0 s1 s2 s3 =
    { n0 := s0 ^^^ s3, n1 := s1 ^^^ s2, n2 := s2 ^^^ s0 ^^^ (s1 <<< 17), n3 := rotl64 (s3 ^^^ s1) 45 }

/-- 42_draw.md R153: `XS` under SEQUENTIAL, and how it differs from PARALLEL. -/
def Obligations.TransitionSequential : Prop :=
  ∀ s0 s1 s2 s3 : Word,
    xs .sequential s0 s1 s2 s3 =
      { n0 := s0 ^^^ s3 ^^^ s1, n1 := s1 ^^^ s2 ^^^ s0, n2 := s2 ^^^ s0 ^^^ (s1 <<< 17),
        n3 := rotl64 (s3 ^^^ s1) 45 } ∧
    (xs .sequential s0 s1 s2 s3).n0 = (xs .parallel s0 s1 s2 s3).n0 ^^^ s1 ∧
    (xs .sequential s0 s1 s2 s3).n1 = (xs .parallel s0 s1 s2 s3).n1 ^^^ s0 ∧
    (xs .sequential s0 s1 s2 s3).n2 = (xs .parallel s0 s1 s2 s3).n2 ∧
    (xs .sequential s0 s1 s2 s3).n3 = (xs .parallel s0 s1 s2 s3).n3

/-- 42_draw.md R166: the worked transitions, with `raw`. -/
def Obligations.WorkedTransitions : Prop :=
  let row := fun (m : XsMode) (s0 s1 s2 s3 : Word) =>
    (s1 <<< 17, xs m s0 s1 s2 s3, rawOf (xs m s0 s1 s2 s3))
  let ones : Word := 0xFFFFFFFFFFFFFFFF
  row .parallel 1 2 3 4 = (0x40000, ⟨0x5, 0x1, 0x40002, 0x0000C00000000000⟩, 0x0000C00000000005) ∧
  row .sequential 1 2 3 4 = (0x40000, ⟨0x7, 0x0, 0x40002, 0x0000C00000000000⟩, 0x0000C00000000007) ∧
  row .parallel ones ones ones ones = (0xFFFFFFFFFFFE0000, ⟨0, 0, 0xFFFFFFFFFFFE0000, 0⟩, 0) ∧
  row .sequential ones ones ones ones = (0xFFFFFFFFFFFE0000, ⟨ones, ones, 0xFFFFFFFFFFFE0000, 0⟩, ones) ∧
  row .parallel 0x8000000000000000 0x0000800000000001 0 0x80000 =
    (0x20000, ⟨0x8000000000080000, 0x0000800000000001, 0x8000000000020000, 0x0000200010000001⟩,
      0x8000200010080001) ∧
  row .sequential 0x8000000000000000 0x0000800000000001 0 0x80000 =
    (0x20000, ⟨0x8000800000080001, 0x8000800000000001, 0x8000000000020000, 0x0000200010000001⟩,
      0x8000A00010080002)

/-- 42_draw.md R156: the five words in order, little-endian, 40 bytes; the same bytes come of the five `MemWrite`s and
the one `MemRead` of R150 whatever the buffer held before; the words are those before the feedback, the counter is the
register's value at the start of the draw, and it is 1 for the first draw after a seeding. -/
def Obligations.WhiteningBufferLayout : Prop :=
  (∀ (n : NewWords) (counter : Word) (wb : List Byte), wb.length = 40 →
    buildWhiteningBuffer wb n counter = le64 (n.n0 + n.n3) ++ le64 n.n0 ++ le64 n.n1 ++ le64 n.n2 ++ le64 counter ∧
    buildWhiteningBuffer wb n counter = whiteningBuffer n counter ∧ (whiteningBuffer n counter).length = 40) ∧
  (∀ s : State,
    let n := xs s.cfg.xsMode s.s0 s.s1 s.s2 s.s3
    (draw s).out = fromLE64 ((h256 s.cfg.digest (le64 (n.n0 + n.n3) ++ le64 n.n0 ++ le64 n.n1 ++ le64 n.n2
      ++ le64 s.counter)).toList.take 8)) ∧
  (∀ (s t : State) (k : Word), exec (.seed k) s = .next t → t.counter = 1)

/-- 42_draw.md R150, R155, R158: the draw's three parts, with the buffer as R150 writes it; nothing but `s0..s3`,
`counter` and `out` changes; `o` has digest byte 0 in its low bits and takes no byte beyond the eighth. -/
def Obligations.DrawProcedure : Prop :=
  ∀ (s : State) (wb : List Byte), wb.length = 40 →
    let n := xs s.cfg.xsMode s.s0 s.s1 s.s2 s.s3
    let raw := n.n0 + n.n3
    let d := (h256 s.cfg.digest (memRead (memWrite (memWrite (memWrite (memWrite (memWrite wb
      0 raw) 8 n.n0) 16 n.n1) 24 n.n2) 32 s.counter) 0 40)).toList
    let o := fromLE64 (d.take 8)
    d.length = 32 ∧ le64 o = d.take 8 ∧
    draw s = { s with
      s0 := n.n0 ^^^ o, s1 := n.n1, s2 := n.n2, s3 := n.n3, counter := s.counter + 0x517CC1B727220A95, out := o }

/-- 42_draw.md R161: the net effect of a draw under PARALLEL, in the registers' values before it. -/
def Obligations.DrawUnderParallel : Prop :=
  ∀ s : State, s.cfg.xsMode = .parallel →
    let t := s.s1 <<< 17
    let n0 := s.s0 ^^^ s.s3
    let n3 := rotl64 (s.s3 ^^^ s.s1) 45
    let o := fromLE64 ((h256 s.cfg.digest (le64 (n0 + n3) ++ le64 n0 ++ le64 (s.s1 ^^^ s.s2)
      ++ le64 (s.s2 ^^^ s.s0 ^^^ t) ++ le64 s.counter)).toList.take 8)
    draw s = { s with
      s0 := n0 ^^^ o, s1 := s.s1 ^^^ s.s2, s2 := s.s2 ^^^ s.s0 ^^^ t, s3 := n3,
      counter := s.counter + 0x517CC1B727220A95, out := o }

/-- 42_draw.md R160: NEXT decodes, makes one draw and answers it whole, or is refused as unseeded; the example. -/
def Obligations.NextDrawsOnce : Prop :=
  (∀ (c : Config) (a b : Word), decode c (packWord 0x04 a b) = .ok .next) ∧
  (∀ s : State, s.seeded = true →
      exec .next s = .next { draw s with rspOut := s.rspOut ++ [⟨.ok, le64 (draw s).out⟩] }) ∧
  (∀ s : State, s.seeded = false → exec .next s = .next { s with rspOut := s.rspOut ++ [⟨.errUnseeded, []⟩] }) ∧
  (let s := exampleState 0xDEADBEEFCAFEBABE
   drawWords s = ⟨0xAB34748D9D2AFEB3, 0xB791358F45D5506A, 0x06972DF6765594E0, 0x074727BACEF0CBAC⟩ ∧
   rawOf (drawWords s) = 0xB27B9C486C1BCA5F ∧
   whiteningBuffer (drawWords s) s.counter =
     [0x5f, 0xca, 0x1b, 0x6c, 0x48, 0x9c, 0x7b, 0xb2, 0xb3, 0xfe, 0x2a, 0x9d, 0x8d, 0x74, 0x34, 0xab,
      0x6a, 0x50, 0xd5, 0x45, 0x8f, 0x35, 0x91, 0xb7, 0xe0, 0x94, 0x55, 0x76, 0xf6, 0x2d, 0x97, 0x06,
      0x01, 0x00, 0x00, 0x00, 0x00, 0x00, 0x00, 0x00] ∧
   (sha256 (whiteningBuffer (drawWords s) s.counter)).toList =
     [0x5d, 0x4a, 0x00, 0x8d, 0x64, 0xdd, 0x25, 0x9c, 0xf9, 0xeb, 0x2e, 0xda, 0xb2, 0x92, 0x93, 0x5c,
      0x72, 0x20, 0x29, 0x8f, 0x08, 0xea, 0xd0, 0x56, 0xf9, 0xad, 0xb5, 0x85, 0xd6, 0x12, 0xcc, 0x0e] ∧
   ∃ t, exec .next s = .next t ∧ t.s0 = 0x3711A9E9102AB4EE ∧ t.s1 = 0xB791358F45D5506A ∧
     t.s2 = 0x06972DF6765594E0 ∧ t.s3 = 0x074727BACEF0CBAC ∧ t.counter = 0x517CC1B727220A96 ∧
     t.out = 0x9C25DD648D004A5D ∧
     (t.rspOut.getLast?.map Response.bytes) = some [0x00, 0x5D, 0x4A, 0x00, 0x8D, 0x64, 0xDD, 0x25, 0x9C])

/-- 42_draw.md R165: the payload of NEXT is digest bytes 0 to 7 in order, and so is each 8-byte group of RANDBYTES. -/
def Obligations.PayloadIsDigestPrefix : Prop :=
  (∀ s : State, s.seeded = true →
      exec .next s = .next { draw s with rspOut := s.rspOut ++ [⟨.ok, drawDigest s⟩] }) ∧
  (∀ (k j : Nat) (s : State), j < k →
      ((drawBytes k s).drop (8 * j)).take 8 = drawDigest (drawN j s)) ∧
  (∀ s : State, (drawDigest s).length = 8)

/-- 10_state.md R33: the counter after `k` draws since a seeding, its full period, and its first five values. -/
def Obligations.CounterWalk : Prop :=
  (∀ (s t : State) (x : Word) (k : Nat), exec (.seed x) s = .next t →
      (drawN k t).counter = 1 + BitVec.ofNat 64 k * 0x517CC1B727220A95#64) ∧
  (∀ j k : Nat, j < 2 ^ 64 → k < 2 ^ 64 →
      1 + BitVec.ofNat 64 j * 0x517CC1B727220A95#64 = 1 + BitVec.ofNat 64 k * 0x517CC1B727220A95#64 → j = k) ∧
  (1 + BitVec.ofNat 64 (2 ^ 64) * 0x517CC1B727220A95#64 = 1) ∧
  (∀ (s t : State) (x : Word), exec (.seed x) s = .next t →
      t.counter = 0x0000000000000001 ∧ (drawN 1 t).counter = 0x517CC1B727220A96 ∧
      (drawN 2 t).counter = 0xA2F9836E4E44152B ∧ (drawN 3 t).counter = 0xF476452575661FC0 ∧
      (drawN 4 t).counter = 0x45F306DC9C882A55)

/-! ## RANDOM -/

/-- 43_derived.md R180: RANDOM decodes (where the build has it), makes one draw and answers its top 53 bits as a
binary64, or is refused as unseeded; the example. -/
def Obligations.RandomDrawsOnce : Prop :=
  (∀ (c : Config) (a b : Word), c.hasDerived = true → decode c (packWord 0x05 a b) = .ok .random) ∧
  (∀ s : State, s.seeded = true →
      exec .random s = .next { draw s with
        rspOut := s.rspOut ++ [⟨.ok, le64 (f64Bits ((draw s).out >>> 11).toNat)⟩] }) ∧
  (∀ s : State, s.seeded = false → exec .random s = .next { s with rspOut := s.rspOut ++ [⟨.errUnseeded, []⟩] }) ∧
  (∃ t, exec .random (exampleState 0xDEADBEEFCAFEBABE) = .next t ∧ t.out = 0x9C25DD648D004A5D ∧
    t.out >>> 11 = 0x001384BBAC91A009 ∧ f64Bits 0x001384BBAC91A009 = 0x3FE384BBAC91A009 ∧
    (t.rspOut.getLast?.map Response.bytes) = some [0x00, 0x09, 0xA0, 0x91, 0xAC, 0xBB, 0x84, 0xE3, 0x3F])

/-- 43_derived.md R181: the pattern is +0.0, or has the sign 0, the exponent 970 + k and the left-aligned bits below
the leading 1; and its value is exactly v / 2^53. -/
def Obligations.F64BitsExact : Prop :=
  ∀ v : Nat, v < 2 ^ 53 →
    (v = 0 → f64Bits v = 0) ∧
    (v ≠ 0 → ∃ k, k ≤ 52 ∧ 2 ^ k ≤ v ∧ v < 2 ^ (k + 1) ∧ (f64Bits v).getLsbD 63 = false ∧
      ((f64Bits v).extractLsb' 52 11).toNat = 970 + k ∧
      ((f64Bits v).extractLsb' 0 52).toNat = v * 2 ^ (52 - k) % 2 ^ 52) ∧
    f64Value (f64Bits v) = (v : ℚ) / 2 ^ 53

/-- 43_derived.md R182: RANDOM's result lies in [0, 1), is +0.0 or normal, and its fixed points. -/
def Obligations.RandomNumerics : Prop :=
  (∀ o : Word, 0 ≤ f64Value (randomBits o) ∧ f64Value (randomBits o) < 1 ∧ (randomBits o).getLsbD 63 = false ∧
      ((randomBits o).extractLsb' 52 11).toNat ≠ 2047 ∧
      (((randomBits o).extractLsb' 52 11).toNat = 0 → randomBits o = 0) ∧
      (randomBits o = 0 ∨ 0x3CA0000000000000 ≤ (randomBits o).toNat) ∧ (randomBits o).toNat ≤ 0x3FEFFFFFFFFFFFFF) ∧
  f64Bits 1 = 0x3CA0000000000000 ∧ f64Bits (2 ^ 53 - 1) = 0x3FEFFFFFFFFFFFFF ∧ f64Bits 0 = 0 ∧
  f64Bits (2 ^ 52) = 0x3FE0000000000000 ∧ f64Bits (3 * 2 ^ 51) = 0x3FE8000000000000

/-! ## RANDINT -/

/-- 43_derived.md R187: the exact quantities of RANDINT and its result. -/
def Obligations.RandintArithmetic : Prop :=
  ∀ a b : Word, sint64 a ≤ sint64 b →
    let span := spanOf (sint64 a) (sint64 b)
    let limit := limitOf span
    (span : Int) = sint64 b - sint64 a + 1 ∧ 1 ≤ span ∧ span ≤ 2 ^ 64 ∧
    2 ^ 63 < limit ∧ limit ≤ 2 ^ 64 ∧ limit = 2 ^ 64 - 2 ^ 64 % span ∧ 2 * (2 ^ 64 - limit) < 2 ^ 64 ∧
    (limit = 2 ^ 64 ↔ ∃ j, span = 2 ^ j) ∧ (limit = 2 ^ 64 → ∀ o : Word, o.toNat < limit) ∧
    ∀ o : Word,
      let r := randintResult (randintWork (sint64 a) (sint64 b)) o
      o.toNat % span < span ∧ r = sint64 a + ((o.toNat % span : Nat) : Int) ∧ sint64 a ≤ r ∧ r ≤ sint64 b ∧
      sint64 (toU64 r) = r ∧ toU64 r = a + BitVec.ofNat 64 (o.toNat % span)

/-- 43_derived.md section 2: one command RANDINT on a seeded core with a valid range. When its first draw is below
`limit` the command answers in this step; else the draw has advanced the state and the command stays in progress. That
one step makes one draw is the model's choice (assumption log 5). -/
def Obligations.RandintFirstTurn : Prop :=
  ∀ (s : State) (a b : Word), s.seeded = true → sint64 a ≤ sint64 b →
    ((draw s).out.toNat < limitOf (spanOf (sint64 a) (sint64 b)) →
      exec (.randint a b) s = .next { draw s with
        inflight := none
        rspOut := s.rspOut ++ [⟨.ok, le64 (toU64 (sint64 a +
          (((draw s).out.toNat % spanOf (sint64 a) (sint64 b) : Nat) : Int)))⟩] }) ∧
    (limitOf (spanOf (sint64 a) (sint64 b)) ≤ (draw s).out.toNat →
      exec (.randint a b) s = .next { draw s with
        inflight := some ⟨sint64 a, spanOf (sint64 a) (sint64 b), limitOf (spanOf (sint64 a) (sint64 b))⟩ })

/-- 43_derived.md section 2: the whole command. If the first `k` draws are at or above `limit` and the next is below,
then `k + 1` steps (assumption log 5: one draw a step) after the core takes the command it has made `k + 1` draws, given
one response, `a + (o mod span)` for the accepted draw `o`, and is ready for the next event. -/
def Obligations.RandintRejectsThenAnswers : Prop :=
  ∀ (s : State) (cw : CmdWord) (a b : Word) (rest : List HostEvent) (k : Nat),
    s.inflight = none → s.cmdIn = .command cw :: rest → decode s.cfg cw = .ok (.randint a b) → s.seeded = true →
    sint64 a ≤ sint64 b → (∀ r, rest ≠ .resetNow :: r) →
    (∀ j, j < k → limitOf (spanOf (sint64 a) (sint64 b)) ≤ (drawN (j + 1) s).out.toNat) →
    (drawN (k + 1) s).out.toNat < limitOf (spanOf (sint64 a) (sint64 b)) →
    Host.Core.run Sys2Proof.core (k + 1) s = .next { drawN (k + 1) s with
      inflight := none
      cmdIn := rest
      rspOut := s.rspOut ++ [⟨.ok, le64 (toU64 (sint64 a +
        (((drawN (k + 1) s).out.toNat % spanOf (sint64 a) (sint64 b) : Nat) : Int)))⟩] }

/-- 43_derived.md section 2, 70_reset_and_hazards.md section 3: while its draws are rejected a RANDINT answers nothing,
and every other event but an immediate reset waits (assumption log 5: one draw a step). -/
def Obligations.RandintWaitsWhileRejected : Prop :=
  ∀ (s : State) (w : RandintWork) (k : Nat), s.inflight = some w → (∀ r, s.cmdIn ≠ .resetNow :: r) →
    (∀ j, j < k → w.limit ≤ (drawN (j + 1) s).out.toNat) →
    Host.Core.run Sys2Proof.core k s = .next (drawN k s) ∧ (drawN k s).rspOut = s.rspOut ∧
      (drawN k s).cmdIn = s.cmdIn ∧ (drawN k s).inflight = some w

/-- 43_derived.md R188: the corner cases (a) to (e). -/
def Obligations.RandintCornerCases : Prop :=
  (∀ (s : State) (a : Word), s.seeded = true →
      spanOf (sint64 a) (sint64 a) = 1 ∧ limitOf 1 = 2 ^ 64 ∧
      exec (.randint a a) s = .next { draw s with inflight := none, rspOut := s.rspOut ++ [⟨.ok, le64 a⟩] }) ∧
  (spanOf (-(2 ^ 63)) (2 ^ 63 - 1) = 2 ^ 64 ∧ limitOf (2 ^ 64) = 2 ^ 64 ∧
    ∀ o : Word, toU64 (randintResult (randintWork (-(2 ^ 63)) (2 ^ 63 - 1)) o) = o ^^^ 0x8000000000000000) ∧
  (spanOf (-(2 ^ 62)) (2 ^ 62) = 2 ^ 63 + 1 ∧ limitOf (2 ^ 63 + 1) = 0x8000000000000001 ∧
    ∀ span, 1 ≤ span → span ≤ 2 ^ 64 → limitOf (2 ^ 63 + 1) ≤ limitOf span) ∧
  (∀ s : State, s.seeded = true →
      exec (.randint 5 3) s = .next { s with rspOut := s.rspOut ++ [⟨.errInvalidRange, []⟩] }) ∧
  (sint64 0xFFFFFFFFFFFFFFFF = -1 ∧ sint64 0 = 0 ∧ spanOf (-1) 0 = 2) ∧
  (∀ s : State, s.seeded = true →
      exec (.randint 0 0xFFFFFFFFFFFFFFFF) s = .next { s with rspOut := s.rspOut ++ [⟨.errInvalidRange, []⟩] })

/-! ## RANDBYTES -/

/-- 43_derived.md R195: RANDBYTES decodes (where the build has it), and answers the first `n` bytes of its draws, or is
refused as unseeded, `n = 0` included; the example. -/
def Obligations.RandbytesAnswersBytes : Prop :=
  (∀ (c : Config) (n b : Word), c.hasDerived = true → decode c (packWord 0x07 n b) = .ok (.randbytes n)) ∧
  (∀ (s : State) (n : Word), s.seeded = true →
      exec (.randbytes n) s = .next { drawN ((n.toNat + 7) / 8) s with
        rspOut := s.rspOut ++
          [⟨.ok, (((List.range ((n.toNat + 7) / 8)).map fun j => le64 (drawN (j + 1) s).out).flatten).take n.toNat⟩] }) ∧
  (∀ (s : State) (n : Word), s.seeded = false →
      exec (.randbytes n) s = .next { s with rspOut := s.rspOut ++ [⟨.errUnseeded, []⟩] }) ∧
  (∃ t, exec (.randbytes 9) (exampleState 0xDEADBEEFCAFEBABE) = .next t ∧ t.out = 0x4F44A9BDDF07278C ∧
    t.counter = 0xA2F9836E4E44152B ∧
    (t.rspOut.getLast?.map Response.bytes) = some [0x00, 0x5D, 0x4A, 0x00, 0x8D, 0x64, 0xDD, 0x25, 0x9C, 0x8C])

/-- 43_derived.md R196, R197: how many draws, which byte comes from which draw, what splitting a request does, the empty
request and the source's sizes. -/
def Obligations.RandbytesPayloadBytes : Prop :=
  (∀ n : Nat, n ≤ 8 * drawsFor n ∧ 8 * drawsFor n < n + 8) ∧
  (∀ (s : State) (n i : Nat), i < n →
      (randbytesPayload n s)[i]? = some ((drawOut (drawN (i / 8) s)).extractLsb' (8 * (i % 8)) 8) ∧
      (randbytesPayload n s)[i]? = (drawDigest (drawN (i / 8) s))[i % 8]?) ∧
  (∀ (s : State) (n : Nat), (randbytesPayload n s).length = n) ∧
  (∀ s : State, randbytesPayload 8 s ++ randbytesPayload 8 (drawN (drawsFor 8) s) = randbytesPayload 16 s) ∧
  (∀ s : State, randbytesPayload 4 s ++ randbytesPayload 4 (drawN (drawsFor 4) s) =
      (le64 (drawOut s)).take 4 ++ (le64 (drawOut (draw s))).take 4) ∧
  (∀ (s : State) (n : Word), s.seeded = true →
      exec (.randbytes n) s = .next { drawN (drawsFor n.toNat) s with
        rspOut := s.rspOut ++ [⟨.ok, randbytesPayload n.toNat s⟩] }) ∧
  (∀ s : State,
      exec (.randbytes 0) s =
        .next { s with rspOut := s.rspOut ++ [⟨if s.seeded then .ok else .errUnseeded, []⟩] }) ∧
  (drawsFor 0 = 0 ∧ drawsFor 1 = 1 ∧ drawsFor 7 = 1 ∧ drawsFor 8 = 1 ∧ drawsFor 9 = 2 ∧ drawsFor 1000 = 125)

/-! ## RDREG -/

/-- 44_inspect.md R210 and R213, 10_state.md R44 and R41: the read-out map, the reserved indices first, then the
`seeded` requirement; nothing but the response changes; the example. -/
def Obligations.RdregReadsRegister : Prop :=
  (∀ (c : Config) (x b : Word), c.hasRdreg = true → decode c (packWord 0x08 x b) = .ok (.rdreg x)) ∧
  (∀ (s : State) (x : Word), 8 ≤ x.toNat →
      exec (.rdreg x) s = .next { s with rspOut := s.rspOut ++ [⟨.errIllegal, []⟩] }) ∧
  (∀ (s : State) (x : Word), x.toNat ≤ 5 → s.seeded = false →
      exec (.rdreg x) s = .next { s with rspOut := s.rspOut ++ [⟨.errUnseeded, []⟩] }) ∧
  (∀ s : State, s.seeded = true →
      exec (.rdreg 0) s = .next { s with rspOut := s.rspOut ++ [⟨.ok, le64 s.s0⟩] } ∧
      exec (.rdreg 1) s = .next { s with rspOut := s.rspOut ++ [⟨.ok, le64 s.s1⟩] } ∧
      exec (.rdreg 2) s = .next { s with rspOut := s.rspOut ++ [⟨.ok, le64 s.s2⟩] } ∧
      exec (.rdreg 3) s = .next { s with rspOut := s.rspOut ++ [⟨.ok, le64 s.s3⟩] } ∧
      exec (.rdreg 4) s = .next { s with rspOut := s.rspOut ++ [⟨.ok, le64 s.counter⟩] } ∧
      exec (.rdreg 5) s = .next { s with rspOut := s.rspOut ++ [⟨.ok, le64 s.seed⟩] }) ∧
  (∀ s : State,
      exec (.rdreg 6) s = .next { s with rspOut := s.rspOut ++ [⟨.ok, le64 (if s.seeded then 1 else 0)⟩] } ∧
      exec (.rdreg 7) s = .next { s with rspOut := s.rspOut ++ [⟨.ok, le64 s.out⟩] }) ∧
  (∃ t u v, exec .next (exampleState 0xDEADBEEFCAFEBABE) = .next t ∧ exec (.rdreg 4) t = .next u ∧
    (u.rspOut.getLast?.map Response.bytes) = some [0x00, 0x96, 0x0A, 0x22, 0x27, 0xB7, 0xC1, 0x7C, 0x51] ∧
    exec (.rdreg 6) t = .next v ∧
    (v.rspOut.getLast?.map Response.bytes) = some [0x00, 0x01, 0x00, 0x00, 0x00, 0x00, 0x00, 0x00, 0x00])

/-- 44_inspect.md, RDREG's corner cases: what it reads after reset and before any seeding, after a seeding, after a draw made by
any command, and at indices that do not fit three bits. Two clauses rest on the model's choices: a turn of RANDINT, a
rejected one included, is a step of its own (log 5), and the reply SEEDE takes stands in the list of replies given in
advance (log 3). -/
def Obligations.RdregCornerCases : Prop :=
  (State.reset.seeded = false ∧ State.reset.out = 0 ∧ ∀ t : State, t.seeded = false → t.out = 0 →
      exec (.rdreg 6) t = .next { t with rspOut := t.rspOut ++ [⟨.ok, le64 0⟩] } ∧
      exec (.rdreg 7) t = .next { t with rspOut := t.rspOut ++ [⟨.ok, le64 0⟩] } ∧
      ∀ x : Word, x.toNat ≤ 5 → exec (.rdreg x) t = .next { t with rspOut := t.rspOut ++ [⟨.errUnseeded, []⟩] }) ∧
  (∀ (i : Instr) (s t : State), isSeeding i = true → exec i s = .next t →
      exec (.rdreg 7) t = .next { t with rspOut := t.rspOut ++ [⟨.ok, le64 0⟩] }) ∧
  (∀ (i : Instr) (s t : State), s.seeded = true → i = .next ∨ i = .random → exec i s = .next t →
      exec (.rdreg 7) t = .next { t with rspOut := t.rspOut ++ [⟨.ok, le64 (draw s).out⟩] }) ∧
  (∀ (s : State) (w : RandintWork),
      exec (.rdreg 7) (randintTurn w s) = .next { randintTurn w s with
        rspOut := (randintTurn w s).rspOut ++ [⟨.ok, le64 (draw s).out⟩] }) ∧
  (∀ (s t : State) (n : Word), s.seeded = true → exec (.randbytes n) s = .next t →
      exec (.rdreg 7) t = .next { t with
        rspOut := t.rspOut ++ [⟨.ok, le64 (drawN ((n.toNat + 7) / 8) s).out⟩] }) ∧
  (∀ (s : State) (x : Word), x = 8 ∨ x = 0x100000000 ∨ x = 0xFFFFFFFFFFFFFFFF →
      exec (.rdreg x) s = .next { s with rspOut := s.rspOut ++ [⟨.errIllegal, []⟩] }) ∧
  (∀ (s t : State) (e : Vector Byte 8) (rest : List (Vector Byte 8)), s.entIn = e :: rest → exec .seede s = .next t →
      exec (.rdreg 5) t = .next { t with rspOut := t.rspOut ++ [⟨.ok, le64 (fromLE64 e.toList)⟩] })

/-- 10_state.md R30: `seed` is written by no command but the seeding ones, and read by none but RDREG 5: with another
value in it, every other command does the same. -/
def Obligations.SeedReadOnlyByRdreg : Prop :=
  (∀ (i : Instr) (s t : State), isSeeding i = false → exec i s = .next t → t.seed = s.seed) ∧
  (∀ (i : Instr) (s t : State) (v : Word), i ≠ .rdreg 5 → exec i s = .next t →
      exec i { s with seed := v } = .next (if isSeeding i then t else { t with seed := v })) ∧
  (∀ s : State, s.seeded = true →
      exec (.rdreg 5) s = .next { s with rspOut := s.rspOut ++ [⟨.ok, le64 s.seed⟩] })

/-! ## Errors -/

/-- 30_encoding.md R97: the status codes, what each means, and that there is no other. -/
def Obligations.StatusCodes : Prop :=
  Status.ok.code = 0x00 ∧ Status.errInvalidRange.code = 0x01 ∧ Status.errUnseeded.code = 0x02 ∧
  Status.errIllegal.code = 0x03 ∧ (∀ st : Status, st.code = 0x00 ∨ st.code = 0x01 ∨ st.code = 0x02 ∨ st.code = 0x03) ∧
  (∀ (i : Instr) (s t : State) (r : Response), exec i s = .next t → t.rspOut = s.rspOut ++ [r] →
    (r.status = .errInvalidRange ↔ ∃ a b, i = .randint a b ∧ s.seeded = true ∧ sint64 b < sint64 a) ∧
    (r.status = .errUnseeded ↔ needsSeed i = true ∧ s.seeded = false) ∧
    (r.status = .errIllegal ↔ ∃ x, i = .rdreg x ∧ 8 ≤ x.toNat)) ∧
  (∀ (s : State) (cw : CmdWord) (rest : List HostEvent) (e : DecodeError), s.inflight = none →
    s.cmdIn = .command cw :: rest → decode s.cfg cw = .error e →
    ∃ t, step s = .next t ∧ t.rspOut = s.rspOut ++ [⟨.errIllegal, []⟩])

/-- 60_exceptions.md R241: whenever a step answers an error, the payload is empty, the command is consumed, every other
field is as it was (no register written, no draw made, nothing recorded) and the core is ready for the next event. -/
def Obligations.ErrorsLeaveTheState : Prop :=
  ∀ (s t : State) (r : Response), step s = .next t → t.rspOut = s.rspOut ++ [r] → r.status ≠ .ok →
    r.payload = [] ∧ t.inflight = none ∧
    ∃ cw, s.cmdIn = .command cw :: t.cmdIn ∧ t = { s with cmdIn := t.cmdIn, rspOut := s.rspOut ++ [r] }

/-- 60_exceptions.md R243: who raises `Unseeded` (0x02), and that after a seeding nothing does until the next reset. -/
def Obligations.UnseededRaisedExactly : Prop :=
  Status.errUnseeded.code = 0x02 ∧
  (∀ (i : Instr) (s t : State), exec i s = .next t →
      (t.rspOut = s.rspOut ++ [⟨.errUnseeded, []⟩] ↔ s.seeded = false ∧ needsSeed i = true)) ∧
  (∀ (i : Instr) (s t : State), isSeeding i = true → exec i s = .next t → t.seeded = true) ∧
  (∀ s t : State, s.seeded = true → noResetNext s → step s = .next t →
      t.seeded = true ∧ t.rspOut ≠ s.rspOut ++ [⟨.errUnseeded, []⟩])

/-- 60_exceptions.md R242: `InvalidRange` (0x01) is raised by RANDINT alone, when `sint64(A) > sint64(B)` on a seeded
core, and then leaves the state unmodified. -/
def Obligations.InvalidRangeRaisedExactly : Prop :=
  Status.errInvalidRange.code = 0x01 ∧
  (∀ (i : Instr) (s t : State), exec i s = .next t →
      (t.rspOut = s.rspOut ++ [⟨.errInvalidRange, []⟩] ↔
        ∃ a b, i = .randint a b ∧ s.seeded = true ∧ sint64 b < sint64 a)) ∧
  (∀ (s : State) (a b : Word), s.seeded = true → sint64 b < sint64 a →
      exec (.randint a b) s = .next { s with rspOut := s.rspOut ++ [⟨.errInvalidRange, []⟩] })

/-- 60_exceptions.md R250: Illegal, then Unseeded, then InvalidRange; the first error found, and only that one. -/
def Obligations.ErrorPriority : Prop :=
  (∀ (s : State) (cw : CmdWord) (rest : List HostEvent) (e : DecodeError), s.inflight = none →
      s.cmdIn = .command cw :: rest → decode s.cfg cw = .error e →
      step s = .next { s with cmdIn := rest, rspOut := s.rspOut ++ [⟨.errIllegal, []⟩] }) ∧
  (∀ (i : Instr) (s : State), i.indexLegal = false →
      exec i s = .next { s with rspOut := s.rspOut ++ [⟨.errIllegal, []⟩] }) ∧
  (∀ (i : Instr) (s : State), i.indexLegal = true → needsSeed i = true → s.seeded = false →
      exec i s = .next { s with rspOut := s.rspOut ++ [⟨.errUnseeded, []⟩] }) ∧
  (∀ (s : State) (a b : Word), s.seeded = true → sint64 b < sint64 a →
      exec (.randint a b) s = .next { s with rspOut := s.rspOut ++ [⟨.errInvalidRange, []⟩] }) ∧
  (∀ s : State, s.seeded = false →
      exec (.randint 5 3) s = .next { s with rspOut := s.rspOut ++ [⟨.errUnseeded, []⟩] }) ∧
  (∀ s : State, exec (.rdreg 9) s = .next { s with rspOut := s.rspOut ++ [⟨.errIllegal, []⟩] })

/-- 30_encoding.md section 5: every command answers one response of the form its row of the table gives, or is a RANDINT
left in progress (assumption log 5), which answers in the step that accepts a draw. -/
def Obligations.ResponseForms : Prop :=
  (∀ (i : Instr) (s t : State), exec i s = .next t →
      (t.rspOut = s.rspOut ∧ t.inflight ≠ none ∧ ∃ a b, i = .randint a b) ∨
      ∃ r : Response, t.rspOut = s.rspOut ++ [r] ∧ r.bytes = r.status.code :: r.payload ∧
        (r.status ≠ .ok → r.payload = []) ∧
        (r.status = .ok →
          match i with
          | .seed _ => r.payload = []
          | .seede => r.payload = []
          | .reseed _ => r.payload = []
          | .next => r.payload = le64 t.out
          | .random => r.payload = le64 (randomBits t.out)
          | .randint a b => ∃ z : Int, sint64 a ≤ z ∧ z ≤ sint64 b ∧ r.payload = le64 (toU64 z)
          | .randbytes n => r.payload.length = n.toNat
          | .rdreg x => ∃ v, readReg x.toNat s = some v ∧ r.payload = le64 v)) ∧
  (∀ (s : State) (w : RandintWork),
      ((draw s).out.toNat < w.limit → (randintTurn w s).inflight = none ∧
        (randintTurn w s).rspOut = s.rspOut ++ [⟨.ok, le64 (toU64 (randintResult w (draw s).out))⟩]) ∧
      (w.limit ≤ (draw s).out.toNat → (randintTurn w s).inflight = some w ∧ (randintTurn w s).rspOut = s.rspOut))

/-! ## The machine as a whole -/

/-- 10_state.md section 9: which registers each command may write, and which fields besides. -/
def Obligations.CommandFrames : Prop :=
  ∀ (i : Instr) (s t : State), exec i s = .next t →
    t.cfg = s.cfg ∧ t.cmdIn = s.cmdIn ∧ t.epoch = s.epoch ∧
    (i ≠ .seede → t.entIn = s.entIn ∧ t.entDrawn = s.entDrawn) ∧
    ((∀ a b, i ≠ .randint a b) → t.inflight = s.inflight) ∧
    (isSeeding i = true → t.seeded = true ∧ t.counter = 1 ∧ t.out = 0) ∧
    (isSeeding i = false → t.seeded = s.seeded ∧ t.seed = s.seed) ∧
    (((∃ x, i = .rdreg x) ∨ i = .randbytes 0 ∨ (∃ a b, i = .randint a b ∧ sint64 b < sint64 a) ∨
        (s.seeded = false ∧ isSeeding i = false)) → t = { s with rspOut := t.rspOut }) ∧
    (s.seeded = true → i = .next ∨ i = .random → t = { draw s with rspOut := t.rspOut })

/-- 30_encoding.md section 3, 20_memory.md section 7: when the core is idle and the first event is a command word that
decodes, the step is `exec` of that command on the state with the event taken; nothing else happens around it. The queue
of host events is the model's form of the command interface (log 4). -/
def Obligations.StepRunsDecodedCommand : Prop :=
  ∀ (s : State) (cw : CmdWord) (i : Instr) (rest : List HostEvent), s.inflight = none →
    s.cmdIn = .command cw :: rest → decode s.cfg cw = .ok i → step s = exec i { s with cmdIn := rest }

/-- 60_exceptions.md section 6: with nothing in progress and no event the core holds its state; and the next step after
`withFetchWord` takes the word placed (the model's convention for the host's command, assumption log 4). -/
def Obligations.IdleHoldsAndFetchTakesWord : Prop :=
  (∀ s : State, s.inflight = none → s.cmdIn = [] → step s = .next s) ∧
  (∀ (s : State) (w : Nat) (i : Instr), w < 2 ^ 136 → decode s.cfg (BitVec.ofNat 136 w) = .ok i →
      step (s.withFetchWord 136 w) = exec i { s with inflight := none })

/-- 60_exceptions.md sections 1 and 6: the core never faults and no command is refused by the model: every step answers
a next state, on the same build (00_scope.md section 5). That an entropy reply always comes is the model's (log 3). -/
def Obligations.EveryStepAnswers : Prop := ∀ s : State, ∃ t, step s = .next t ∧ t.cfg = s.cfg

/-- 10_state.md section 8: what R50 says of the state right after reset: `seeded`, `out` and STATUS are 0. It says
nothing of the six registers R50 leaves without a value. The empty queues of an idle core are the model's (log 4). -/
def Obligations.ResetState : Prop :=
  State.reset.seeded = false ∧ State.reset.out = 0 ∧ statusView State.reset = 0 ∧ State.reset.idle = true

/-- 70_reset_and_hazards.md section 1: a reset, when idle or at once, leaves `seeded` and `out` 0 and the core with no
command in progress and no response, and keeps the build. That resets come as events is the model's (log 6). -/
def Obligations.ResetEvents : Prop :=
  ∀ (s : State) (rest : List HostEvent),
    (s.cmdIn = .resetNow :: rest ∨ (s.inflight = none ∧ s.cmdIn = .resetIdle :: rest)) →
    ∃ t, step s = .next t ∧ t.seeded = false ∧ t.out = 0 ∧ statusView t = 0 ∧ t.inflight = none ∧ t.cmdIn = rest ∧
      t.rspOut = s.rspOut ∧ t.cfg = s.cfg ∧ t.entIn = s.entIn ∧ t.entDrawn = s.entDrawn

/-- 10_state.md section 1: `seeded` becomes 1 only by a seeding command and 0 only by a reset, in the model's events for
both (logs 4 and 6). -/
def Obligations.SeededChangesOnlySo : Prop :=
  (∀ s t : State, s.seeded = true → step s = .next t → t.seeded = false →
      ∃ rest, s.cmdIn = .resetNow :: rest ∨ (s.inflight = none ∧ s.cmdIn = .resetIdle :: rest)) ∧
  (∀ s t : State, s.seeded = false → step s = .next t → t.seeded = true →
      ∃ cw rest i, s.cmdIn = .command cw :: rest ∧ decode s.cfg cw = .ok i ∧ isSeeding i = true)

/-- The invariant holds at reset (00_scope.md section 4 for the build, 10_state.md section 8). -/
def Obligations.InvariantAtReset : Prop := State.reset.Inv

/-- 00_scope.md section 4, 10_state.md sections 1, 7 and 8: every step keeps the invariant: an admissible build, a command in
progress only on a seeded core and over a valid range (log 5), and `out` 0 until something is seeded. -/
def Obligations.InvariantKept : Prop := ∀ s t : State, s.Inv → step s = .next t → t.Inv

/-- 10_state.md sections 1 and 8, 93 part 1: what the six registers hold before the first seeding can never be observed:
two states that agree as 10_state.md compares them, with the same inputs, give the same responses for ever and agree
after every step. The model holds opaque constants there (log 2). The premise rules out only states no run reaches (`InvariantKept`). -/
def Obligations.UnsetRegistersUnobservable : Prop :=
  ∀ s t : State, s.inflightOk = true → s.archEq t → s.sameInterfaces t →
    ∀ n : Nat, ∃ s' t', Host.Core.run Sys2Proof.core n s = .next s' ∧ Host.Core.run Sys2Proof.core n t = .next t' ∧
      s'.archEq t' ∧ s'.sameInterfaces t'

/-! ## The two written-out digests -/

/-- 48_reference_digest.md R232: `H_FOLD`, and the draw's output under it. -/
def Obligations.HFoldOutput : Prop :=
  (∀ m : List Byte, m.length = 40 →
      let w := fun j : Nat => fromLE64 ((m.drop (8 * j)).take 8)
      (h256 .hFold m).toList = le64 (w 0 + 3 * w 1 + 5 * w 2 + 7 * w 3 + 11 * w 4) ++ List.replicate 24 0) ∧
  (∀ (n : NewWords) (counter : Word),
      whiten .hFold n counter = rawOf n + 3 * n.n0 + 5 * n.n1 + 7 * n.n2 + 11 * counter)

/-- 48_reference_digest.md R230: the four check values of SHA-256. -/
def Obligations.Sha256CheckValues : Prop :=
  (sha256 []).toList =
    [0xe3, 0xb0, 0xc4, 0x42, 0x98, 0xfc, 0x1c, 0x14, 0x9a, 0xfb, 0xf4, 0xc8, 0x99, 0x6f, 0xb9, 0x24,
     0x27, 0xae, 0x41, 0xe4, 0x64, 0x9b, 0x93, 0x4c, 0xa4, 0x95, 0x99, 0x1b, 0x78, 0x52, 0xb8, 0x55] ∧
  (sha256 [0x61, 0x62, 0x63]).toList =
    [0xba, 0x78, 0x16, 0xbf, 0x8f, 0x01, 0xcf, 0xea, 0x41, 0x41, 0x40, 0xde, 0x5d, 0xae, 0x22, 0x23,
     0xb0, 0x03, 0x61, 0xa3, 0x96, 0x17, 0x7a, 0x9c, 0xb4, 0x10, 0xff, 0x61, 0xf2, 0x00, 0x15, 0xad] ∧
  (sha256 (List.replicate 40 0)).toList =
    [0x2c, 0x34, 0xce, 0x1d, 0xf2, 0x3b, 0x83, 0x8c, 0x5a, 0xbf, 0x2a, 0x7f, 0x64, 0x37, 0xcc, 0xa3,
     0xd3, 0x06, 0x7e, 0xd5, 0x09, 0xff, 0x25, 0xf1, 0x1d, 0xf6, 0xb1, 0x1b, 0x58, 0x2b, 0x51, 0xeb] ∧
  (sha256 ((List.range 40).map (BitVec.ofNat 8))).toList =
    [0x5f, 0xaa, 0x4e, 0xec, 0x36, 0x11, 0x55, 0x68, 0x12, 0xc2, 0xd7, 0x4b, 0x43, 0x7c, 0x8c, 0x49,
     0xad, 0xd3, 0xf9, 0x10, 0xf1, 0x00, 0x63, 0xd8, 0x01, 0x44, 0x1f, 0x7d, 0x75, 0xcd, 0x5e, 0x3b] ∧
  fromLE64 [0x5f, 0xaa, 0x4e, 0xec, 0x36, 0x11, 0x55, 0x68] = 0x68551136EC4EAA5F

/-- 48_reference_digest.md section 2: padding, the blocks of 64 bytes in order, and the core's one-block case. That the
bit length of 2^61 bytes or more is taken modulo 2^64 is the model's choice (log 9). -/
def Obligations.Sha256Padding : Prop :=
  (∀ m : List Byte, ∃ z, z < 64 ∧ (m.length + 1 + z) % 64 = 56 ∧
      shaPad m = m ++ [0x80] ++ List.replicate z 0
        ++ (List.range 8).map (fun i => BitVec.ofNat 8 (8 * m.length / 2 ^ (8 * (7 - i)))) ∧
      (shaPad m).length % 64 = 0 ∧
      (sha256 m).toList = shaOutput (shaBlocks ((shaPad m).length / 64) shaInit (shaPad m))) ∧
  (∀ (n : Nat) (h : ShaState) (m : List Byte),
      shaBlocks 0 h m = h ∧ shaBlocks (n + 1) h m = shaBlocks n (shaCompress h (m.take 64)) (m.drop 64)) ∧
  (∀ m : List Byte, m.length = 40 →
      shaPad m = m ++ [0x80] ++ List.replicate 15 0 ++ [0, 0, 0, 0, 0, 0, 0x01, 0x40] ∧
      (shaPad m).length = 64 ∧ (sha256 m).toList = shaOutput (shaCompress shaInit (shaPad m)))
end

