-- ==== Sys2Proof/Laws/Bytes.lean ====
section
/-!
SUPPORT. Laws/Bytes.lean: the fields of a packed word, and the bytes of a word.
-/

namespace Sys2Proof

@[simp] theorem opField_packWord (op : Byte) (a b : Word) : opField (packWord op a b) = op := by
  ext i hi
  simp only [opField, packWord, BitVec.getElem_extractLsb', BitVec.getLsbD_append, Nat.zero_add]
  rw [if_pos hi, BitVec.getLsbD_eq_getElem hi]

@[simp] theorem aField_packWord (op : Byte) (a b : Word) : aField (packWord op a b) = a := by
  ext i hi
  simp only [aField, packWord, BitVec.getElem_extractLsb', BitVec.getLsbD_append]
  rw [if_neg (by omega), Nat.add_sub_cancel_left, if_pos hi]
  simp [hi]

@[simp] theorem bField_packWord (op : Byte) (a b : Word) : bField (packWord op a b) = b := by
  ext i hi
  simp only [bField, packWord, BitVec.getElem_extractLsb', BitVec.getLsbD_append]
  rw [if_neg (by omega), if_neg (by omega), show 72 + i - 8 - 64 = i by omega]
  simp [hi]

@[simp] theorem leBytes_length {w : Nat} (n : Nat) (v : BitVec w) : (leBytes n v).length = n := by
  simp [leBytes]

@[simp] theorem le64_length (v : Word) : (le64 v).length = 8 := leBytes_length 8 v

@[simp] theorem bytesOfWord_length (cw : CmdWord) : (bytesOfWord cw).length = 17 := leBytes_length 17 cw

/-- The bytes of a field that starts at byte `j` of a word. -/
theorem leBytes_extract {w : Nat} (j n : Nat) (v : BitVec w) :
    leBytes n (v.extractLsb' (8 * j) (8 * n)) = (List.range n).map fun i => v.extractLsb' (8 * (j + i)) 8 := by
  refine List.map_congr_left fun i hi => BitVec.eq_of_getLsbD_eq fun k hk => ?_
  have hi := List.mem_range.mp hi
  simp only [BitVec.getLsbD_extractLsb', hk, decide_true, Bool.true_and]
  rw [decide_eq_true (by omega), Bool.true_and]
  congr 1
  omega

/-- The 17 bytes of a command word are its opcode and its two operands (30_encoding.md R81). -/
theorem bytesOfWord_eq (cw : CmdWord) :
    bytesOfWord cw = opField cw :: (le64 (aField cw) ++ le64 (bField cw)) := by
  have ha : le64 (aField cw) = (List.range 8).map fun i => cw.extractLsb' (8 * (1 + i)) 8 := leBytes_extract 1 8 cw
  have hb : le64 (bField cw) = (List.range 8).map fun i => cw.extractLsb' (8 * (9 + i)) 8 := leBytes_extract 9 8 cw
  rw [ha, hb]
  rfl

/-- A word is made of its three fields (30_encoding.md R81). -/
theorem packWord_fields (cw : CmdWord) : packWord (opField cw) (aField cw) (bField cw) = cw := by
  refine BitVec.eq_of_getLsbD_eq fun i hi => ?_
  simp only [packWord, BitVec.getLsbD_append, opField, aField, bField, BitVec.getLsbD_extractLsb']
  split
  · simp_all
  · split
    · rw [show 8 + (i - 8) = i by omega, decide_eq_true (by omega), Bool.true_and]
    · rw [show 72 + (i - 8 - 64) = i by omega, decide_eq_true (by omega), Bool.true_and]

theorem fromLE_append (xs ys : List Byte) : fromLE (xs ++ ys) = fromLE xs + 256 ^ xs.length * fromLE ys := by
  induction xs with
  | nil => simp [fromLE]
  | cons x xs ih => simp only [List.cons_append, fromLE, ih, List.length_cons, pow_succ]; ring

theorem fromLE_lt (xs : List Byte) : fromLE xs < 256 ^ xs.length := by
  induction xs with
  | nil => simp [fromLE]
  | cons x xs ih =>
    have hx := x.isLt
    simp only [fromLE, List.length_cons, pow_succ]
    omega

/-- The `n` low bytes of a word, read back, are its value modulo `256 ^ n`. -/
theorem fromLE_leBytes {w : Nat} (n : Nat) (v : BitVec w) : fromLE (leBytes n v) = v.toNat % 256 ^ n := by
  induction n with
  | zero => simp [leBytes, fromLE, Nat.mod_one]
  | succ n ih =>
    have h : leBytes (n + 1) v = leBytes n v ++ [v.extractLsb' (8 * n) 8] := by
      simp [leBytes, List.range_succ]
    have e : (256 : Nat) ^ n = 2 ^ (8 * n) := by rw [pow_mul]; rfl
    rw [h, fromLE_append, ih, leBytes_length]
    simp only [fromLE, BitVec.extractLsb'_toNat, Nat.shiftRight_eq_div_pow, Nat.mul_zero, Nat.add_zero, ← e,
      show (2 : Nat) ^ 8 = 256 from rfl]
    rw [pow_succ, Nat.mod_mul]

@[simp] theorem fromLE64_le64 (v : Word) : fromLE64 (le64 v) = v := by
  have := v.isLt
  apply BitVec.eq_of_toNat_eq
  rw [fromLE64, le64, fromLE_leBytes, BitVec.toNat_ofNat]
  omega

theorem wordOfBytes_bytesOfWord_append (cw : CmdWord) (rest : List Byte) :
    wordOfBytes (bytesOfWord cw ++ rest) = cw := by
  have := cw.isLt
  apply BitVec.eq_of_toNat_eq
  rw [wordOfBytes, List.take_left' (bytesOfWord_length cw), bytesOfWord, fromLE_leBytes, BitVec.toNat_ofNat]
  omega

/-- The bytes of a number below 256 ^ n, read as a word and written out again, are the same bytes. -/
theorem leBytes_ofNat_fromLE {w : Nat} (bs : List Byte) (h : 8 * bs.length ≤ w) :
    leBytes bs.length (BitVec.ofNat w (fromLE bs)) = bs := by
  apply List.ext_getElem (by simp)
  intro i h₁ h₂
  have hlt := fromLE_lt bs
  have hw : fromLE bs < 2 ^ w :=
    lt_of_lt_of_le (by rw [show (256 : Nat) = 2 ^ 8 from rfl, ← pow_mul] at hlt; exact hlt)
      (Nat.pow_le_pow_right (by omega) h)
  have hsplit : bs = bs.take i ++ bs[i] :: bs.drop (i + 1) := by simp
  have hval : fromLE bs = fromLE (bs.take i) + 256 ^ i * (bs[i].toNat + 256 * fromLE (bs.drop (i + 1))) := by
    conv_lhs => rw [hsplit]
    rw [fromLE_append, fromLE, List.length_take, Nat.min_eq_left (by omega)]
  have hlow : fromLE (bs.take i) < 256 ^ i := by
    have := fromLE_lt (bs.take i)
    rwa [List.length_take, Nat.min_eq_left (by omega)] at this
  apply BitVec.eq_of_toNat_eq
  have hb := bs[i].isLt
  simp only [leBytes, List.getElem_map, List.getElem_range, BitVec.extractLsb'_toNat, BitVec.toNat_ofNat,
    Nat.mod_eq_of_lt hw, Nat.shiftRight_eq_div_pow, pow_mul, show (2 : Nat) ^ 8 = 256 from rfl]
  rw [hval, Nat.add_mul_div_left _ _ (by positivity), Nat.div_eq_of_lt hlow]
  omega

theorem le64_fromLE64 (b : List Byte) (h : b.length = 8) : le64 (fromLE64 b) = b := by
  have := leBytes_ofNat_fromLE (w := 64) b (by omega)
  rwa [h] at this

end Sys2Proof
end

