-- ==== Sys2Proof/Laws/State.lean ====
section
/-!
SUPPORT. Laws/State.lean: for each update of the state, what each field holds after it.
-/

namespace Sys2Proof.Machine

/-! ### respond -/

@[simp] theorem respond_cfg (st : Status) (p : List Byte) (s : State) : (respond st p s).cfg = s.cfg := rfl
@[simp] theorem respond_seeded (st : Status) (p : List Byte) (s : State) : (respond st p s).seeded = s.seeded := rfl
@[simp] theorem respond_seed (st : Status) (p : List Byte) (s : State) : (respond st p s).seed = s.seed := rfl
@[simp] theorem respond_s0 (st : Status) (p : List Byte) (s : State) : (respond st p s).s0 = s.s0 := rfl
@[simp] theorem respond_s1 (st : Status) (p : List Byte) (s : State) : (respond st p s).s1 = s.s1 := rfl
@[simp] theorem respond_s2 (st : Status) (p : List Byte) (s : State) : (respond st p s).s2 = s.s2 := rfl
@[simp] theorem respond_s3 (st : Status) (p : List Byte) (s : State) : (respond st p s).s3 = s.s3 := rfl
@[simp] theorem respond_counter (st : Status) (p : List Byte) (s : State) : (respond st p s).counter = s.counter := rfl
@[simp] theorem respond_out (st : Status) (p : List Byte) (s : State) : (respond st p s).out = s.out := rfl
@[simp] theorem respond_inflight (st : Status) (p : List Byte) (s : State) : (respond st p s).inflight = s.inflight := rfl
@[simp] theorem respond_cmdIn (st : Status) (p : List Byte) (s : State) : (respond st p s).cmdIn = s.cmdIn := rfl
@[simp] theorem respond_rspOut (st : Status) (p : List Byte) (s : State) : (respond st p s).rspOut = s.rspOut ++ [⟨st, p⟩] := rfl
@[simp] theorem respond_entIn (st : Status) (p : List Byte) (s : State) : (respond st p s).entIn = s.entIn := rfl
@[simp] theorem respond_entDrawn (st : Status) (p : List Byte) (s : State) : (respond st p s).entDrawn = s.entDrawn := rfl
@[simp] theorem respond_epoch (st : Status) (p : List Byte) (s : State) : (respond st p s).epoch = s.epoch := rfl

/-! ### raiseError -/

@[simp] theorem raiseError_cfg (e : CoreError) (s : State) : (raiseError e s).cfg = s.cfg := rfl
@[simp] theorem raiseError_seeded (e : CoreError) (s : State) : (raiseError e s).seeded = s.seeded := rfl
@[simp] theorem raiseError_seed (e : CoreError) (s : State) : (raiseError e s).seed = s.seed := rfl
@[simp] theorem raiseError_s0 (e : CoreError) (s : State) : (raiseError e s).s0 = s.s0 := rfl
@[simp] theorem raiseError_s1 (e : CoreError) (s : State) : (raiseError e s).s1 = s.s1 := rfl
@[simp] theorem raiseError_s2 (e : CoreError) (s : State) : (raiseError e s).s2 = s.s2 := rfl
@[simp] theorem raiseError_s3 (e : CoreError) (s : State) : (raiseError e s).s3 = s.s3 := rfl
@[simp] theorem raiseError_counter (e : CoreError) (s : State) : (raiseError e s).counter = s.counter := rfl
@[simp] theorem raiseError_out (e : CoreError) (s : State) : (raiseError e s).out = s.out := rfl
@[simp] theorem raiseError_inflight (e : CoreError) (s : State) : (raiseError e s).inflight = s.inflight := rfl
@[simp] theorem raiseError_cmdIn (e : CoreError) (s : State) : (raiseError e s).cmdIn = s.cmdIn := rfl
@[simp] theorem raiseError_rspOut (e : CoreError) (s : State) : (raiseError e s).rspOut = s.rspOut ++ [⟨e.status, []⟩] := rfl
@[simp] theorem raiseError_entIn (e : CoreError) (s : State) : (raiseError e s).entIn = s.entIn := rfl
@[simp] theorem raiseError_entDrawn (e : CoreError) (s : State) : (raiseError e s).entDrawn = s.entDrawn := rfl
@[simp] theorem raiseError_epoch (e : CoreError) (s : State) : (raiseError e s).epoch = s.epoch := rfl

/-! ### applyReset -/

@[simp] theorem applyReset_cfg (s : State) : (applyReset s).cfg = s.cfg := rfl
@[simp] theorem applyReset_seeded (s : State) : (applyReset s).seeded = false := rfl
@[simp] theorem applyReset_seed (s : State) : (applyReset s).seed = Config.unsetWord s.epoch 5 := rfl
@[simp] theorem applyReset_s0 (s : State) : (applyReset s).s0 = Config.unsetWord s.epoch 0 := rfl
@[simp] theorem applyReset_s1 (s : State) : (applyReset s).s1 = Config.unsetWord s.epoch 1 := rfl
@[simp] theorem applyReset_s2 (s : State) : (applyReset s).s2 = Config.unsetWord s.epoch 2 := rfl
@[simp] theorem applyReset_s3 (s : State) : (applyReset s).s3 = Config.unsetWord s.epoch 3 := rfl
@[simp] theorem applyReset_counter (s : State) : (applyReset s).counter = Config.unsetWord s.epoch 4 := rfl
@[simp] theorem applyReset_out (s : State) : (applyReset s).out = 0 := rfl
@[simp] theorem applyReset_inflight (s : State) : (applyReset s).inflight = none := rfl
@[simp] theorem applyReset_cmdIn (s : State) : (applyReset s).cmdIn = s.cmdIn := rfl
@[simp] theorem applyReset_rspOut (s : State) : (applyReset s).rspOut = s.rspOut := rfl
@[simp] theorem applyReset_entIn (s : State) : (applyReset s).entIn = s.entIn := rfl
@[simp] theorem applyReset_entDrawn (s : State) : (applyReset s).entDrawn = s.entDrawn := rfl
@[simp] theorem applyReset_epoch (s : State) : (applyReset s).epoch = s.epoch + 1 := rfl

/-! ### seedProc -/

@[simp] theorem seedProc_cfg (k : Word) (s : State) : (seedProc k s).cfg = s.cfg := rfl
@[simp] theorem seedProc_seeded (k : Word) (s : State) : (seedProc k s).seeded = true := rfl
@[simp] theorem seedProc_seed (k : Word) (s : State) : (seedProc k s).seed = k := rfl
@[simp] theorem seedProc_s0 (k : Word) (s : State) : (seedProc k s).s0 = seedWord s.cfg.mix k 0 := rfl
@[simp] theorem seedProc_s1 (k : Word) (s : State) : (seedProc k s).s1 = seedWord s.cfg.mix k 1 := rfl
@[simp] theorem seedProc_s2 (k : Word) (s : State) : (seedProc k s).s2 = seedWord s.cfg.mix k 2 := rfl
@[simp] theorem seedProc_s3 (k : Word) (s : State) : (seedProc k s).s3 = seedWord s.cfg.mix k 3 := rfl
@[simp] theorem seedProc_counter (k : Word) (s : State) : (seedProc k s).counter = 1 := rfl
@[simp] theorem seedProc_out (k : Word) (s : State) : (seedProc k s).out = 0 := rfl
@[simp] theorem seedProc_inflight (k : Word) (s : State) : (seedProc k s).inflight = s.inflight := rfl
@[simp] theorem seedProc_cmdIn (k : Word) (s : State) : (seedProc k s).cmdIn = s.cmdIn := rfl
@[simp] theorem seedProc_rspOut (k : Word) (s : State) : (seedProc k s).rspOut = s.rspOut := rfl
@[simp] theorem seedProc_entIn (k : Word) (s : State) : (seedProc k s).entIn = s.entIn := rfl
@[simp] theorem seedProc_entDrawn (k : Word) (s : State) : (seedProc k s).entDrawn = s.entDrawn := rfl
@[simp] theorem seedProc_epoch (k : Word) (s : State) : (seedProc k s).epoch = s.epoch := rfl

/-! ### draw -/

@[simp] theorem draw_cfg (s : State) : (draw s).cfg = s.cfg := rfl
@[simp] theorem draw_seeded (s : State) : (draw s).seeded = s.seeded := rfl
@[simp] theorem draw_seed (s : State) : (draw s).seed = s.seed := rfl
@[simp] theorem draw_s0 (s : State) : (draw s).s0 = (drawWords s).n0 ^^^ drawOut s := rfl
@[simp] theorem draw_s1 (s : State) : (draw s).s1 = (drawWords s).n1 := rfl
@[simp] theorem draw_s2 (s : State) : (draw s).s2 = (drawWords s).n2 := rfl
@[simp] theorem draw_s3 (s : State) : (draw s).s3 = (drawWords s).n3 := rfl
@[simp] theorem draw_counter (s : State) : (draw s).counter = s.counter + ctrInc := rfl
@[simp] theorem draw_out (s : State) : (draw s).out = drawOut s := rfl
@[simp] theorem draw_inflight (s : State) : (draw s).inflight = s.inflight := rfl
@[simp] theorem draw_cmdIn (s : State) : (draw s).cmdIn = s.cmdIn := rfl
@[simp] theorem draw_rspOut (s : State) : (draw s).rspOut = s.rspOut := rfl
@[simp] theorem draw_entIn (s : State) : (draw s).entIn = s.entIn := rfl
@[simp] theorem draw_entDrawn (s : State) : (draw s).entDrawn = s.entDrawn := rfl
@[simp] theorem draw_epoch (s : State) : (draw s).epoch = s.epoch := rfl

/-! ### dropEntropy -/

@[simp] theorem dropEntropy_cfg (s : State) : (dropEntropy s).cfg = s.cfg := by
  unfold dropEntropy; split <;> simp_all
@[simp] theorem dropEntropy_seeded (s : State) : (dropEntropy s).seeded = s.seeded := by
  unfold dropEntropy; split <;> simp_all
@[simp] theorem dropEntropy_seed (s : State) : (dropEntropy s).seed = s.seed := by
  unfold dropEntropy; split <;> simp_all
@[simp] theorem dropEntropy_s0 (s : State) : (dropEntropy s).s0 = s.s0 := by
  unfold dropEntropy; split <;> simp_all
@[simp] theorem dropEntropy_s1 (s : State) : (dropEntropy s).s1 = s.s1 := by
  unfold dropEntropy; split <;> simp_all
@[simp] theorem dropEntropy_s2 (s : State) : (dropEntropy s).s2 = s.s2 := by
  unfold dropEntropy; split <;> simp_all
@[simp] theorem dropEntropy_s3 (s : State) : (dropEntropy s).s3 = s.s3 := by
  unfold dropEntropy; split <;> simp_all
@[simp] theorem dropEntropy_counter (s : State) : (dropEntropy s).counter = s.counter := by
  unfold dropEntropy; split <;> simp_all
@[simp] theorem dropEntropy_out (s : State) : (dropEntropy s).out = s.out := by
  unfold dropEntropy; split <;> simp_all
@[simp] theorem dropEntropy_inflight (s : State) : (dropEntropy s).inflight = s.inflight := by
  unfold dropEntropy; split <;> simp_all
@[simp] theorem dropEntropy_cmdIn (s : State) : (dropEntropy s).cmdIn = s.cmdIn := by
  unfold dropEntropy; split <;> simp_all
@[simp] theorem dropEntropy_rspOut (s : State) : (dropEntropy s).rspOut = s.rspOut := by
  unfold dropEntropy; split <;> simp_all
@[simp] theorem dropEntropy_entIn (s : State) : (dropEntropy s).entIn = s.entIn.tail := by
  unfold dropEntropy; split <;> simp_all
@[simp] theorem dropEntropy_entDrawn (s : State) : (dropEntropy s).entDrawn = if s.entIn = [] then s.entDrawn + 1 else s.entDrawn := by
  unfold dropEntropy; split <;> simp_all
@[simp] theorem dropEntropy_epoch (s : State) : (dropEntropy s).epoch = s.epoch := by
  unfold dropEntropy; split <;> simp_all

/-! ### drawN -/

@[simp] theorem drawN_zero (s : State) : drawN 0 s = s := rfl
@[simp] theorem drawN_succ (k : Nat) (s : State) : drawN (k + 1) s = drawN k (draw s) := rfl

@[simp] theorem drawN_cfg (k : Nat) (s : State) : (drawN k s).cfg = s.cfg := by
  induction k generalizing s with
  | zero => rfl
  | succ k ih => simp [ih]
@[simp] theorem drawN_seeded (k : Nat) (s : State) : (drawN k s).seeded = s.seeded := by
  induction k generalizing s with
  | zero => rfl
  | succ k ih => simp [ih]
@[simp] theorem drawN_seed (k : Nat) (s : State) : (drawN k s).seed = s.seed := by
  induction k generalizing s with
  | zero => rfl
  | succ k ih => simp [ih]
@[simp] theorem drawN_inflight (k : Nat) (s : State) : (drawN k s).inflight = s.inflight := by
  induction k generalizing s with
  | zero => rfl
  | succ k ih => simp [ih]
@[simp] theorem drawN_cmdIn (k : Nat) (s : State) : (drawN k s).cmdIn = s.cmdIn := by
  induction k generalizing s with
  | zero => rfl
  | succ k ih => simp [ih]
@[simp] theorem drawN_rspOut (k : Nat) (s : State) : (drawN k s).rspOut = s.rspOut := by
  induction k generalizing s with
  | zero => rfl
  | succ k ih => simp [ih]
@[simp] theorem drawN_entIn (k : Nat) (s : State) : (drawN k s).entIn = s.entIn := by
  induction k generalizing s with
  | zero => rfl
  | succ k ih => simp [ih]
@[simp] theorem drawN_entDrawn (k : Nat) (s : State) : (drawN k s).entDrawn = s.entDrawn := by
  induction k generalizing s with
  | zero => rfl
  | succ k ih => simp [ih]
@[simp] theorem drawN_epoch (k : Nat) (s : State) : (drawN k s).epoch = s.epoch := by
  induction k generalizing s with
  | zero => rfl
  | succ k ih => simp [ih]

end Sys2Proof.Machine
end

