-- ==== Sys2Proof/Laws/Exec.lean ====
section
/-!
SUPPORT. Laws/Exec.lean: every command and every step answers a next state, named here once; the two checks commands
share; what fetching can do; a run as an iteration.
-/

namespace Sys2Proof.Machine

/-- The state a command leaves. -/
def after (i : Instr) (s : State) : State :=
  match i with
  | .seed k => respond .ok [] (seedProc k s)
  | .seede => respond .ok [] (seedProc (entropySeed (entropyReply s)) (dropEntropy s))
  | .reseed k => respond .ok [] (seedProc k s)
  | .next => whenSeeded nextSeeded s
  | .random => whenSeeded randomSeeded s
  | .randint a b => whenSeeded (randintSeeded (boundOperand a) (boundOperand b)) s
  | .randbytes n => whenSeeded (randbytesSeeded (countOperand n)) s
  | .rdreg x => rdregState (indexOperand x) s

theorem exec_eq_after (i : Instr) (s : State) : exec i s = .next (after i s) := by cases i <;> rfl

theorem exec_next_iff (i : Instr) (s t : State) : exec i s = .next t ↔ t = after i s := by
  rw [exec_eq_after]
  constructor
  · intro h
    injection h with h
    exact h.symm
  · rintro rfl
    rfl

theorem whenSeeded_of_seeded {f : State → State} {s : State} (h : s.seeded = true) : whenSeeded f s = f s := by
  simp [whenSeeded, h]

theorem whenSeeded_of_unseeded {f : State → State} {s : State} (h : s.seeded = false) :
    whenSeeded f s = raiseError .unseeded s := by
  simp [whenSeeded, h]

/-- There is no register at a reserved index. -/
theorem readReg_reserved {i : Nat} (s : State) (h : 8 ≤ i) : readReg i s = none := by
  match i, h with
  | n + 8, _ => rfl

/-- There is a register at every other index. -/
theorem readReg_legal {i : Nat} (s : State) (h : i < 8) : ∃ v, readReg i s = some v := by
  match i, h with
  | 0, _ => exact ⟨_, rfl⟩
  | 1, _ => exact ⟨_, rfl⟩
  | 2, _ => exact ⟨_, rfl⟩
  | 3, _ => exact ⟨_, rfl⟩
  | 4, _ => exact ⟨_, rfl⟩
  | 5, _ => exact ⟨_, rfl⟩
  | 6, _ => exact ⟨_, rfl⟩
  | 7, _ => exact ⟨_, rfl⟩

/-- All that RDREG can do. -/
theorem rdregState_cases (i : Nat) (s : State) :
    (8 ≤ i ∧ rdregState i s = raiseError .illegal s) ∨
    (i ≤ 5 ∧ s.seeded = false ∧ rdregState i s = raiseError .unseeded s) ∨
    (i < 8 ∧ (i ≤ 5 → s.seeded = true) ∧ ∃ v, readReg i s = some v ∧ rdregState i s = respond .ok (le64 v) s) := by
  rcases Nat.lt_or_ge i 8 with h | h
  · obtain ⟨v, hv⟩ := readReg_legal s h
    by_cases h5 : i ≤ 5 <;> cases hs : s.seeded <;> simp [rdregState, hv, needsSeeded, h5, hs, h]
  · exact .inl ⟨h, by simp [rdregState, readReg_reserved s h]⟩

/-- All that one turn of RANDINT can do. -/
theorem randintTurn_cases (w : RandintWork) (s : State) :
    ((drawOut s).toNat < w.limit ∧ randintTurn w s =
      respond .ok (le64 (toU64 (randintResult w (drawOut s)))) { draw s with inflight := none }) ∨
    (w.limit ≤ (drawOut s).toNat ∧ randintTurn w s = { draw s with inflight := some w }) := by
  rcases Nat.lt_or_ge (drawOut s).toNat w.limit with h | h
  · exact .inl ⟨h, by simp [randintTurn, h]⟩
  · exact .inr ⟨h, by simp [randintTurn, Nat.not_lt.mpr h]⟩

/-- All that a command can do: seed, answer an error, draw once and answer, draw for bytes, take one turn of RANDINT, or
read a register. -/
theorem after_cases (i : Instr) (s : State) :
    (isSeeding i = true ∧ ∃ k u, after i s = respond .ok [] (seedProc k u) ∧
      (u = s ∨ (i = .seede ∧ u = dropEntropy s))) ∨
    (isSeeding i = false ∧ ∃ e, after i s = raiseError e s ∧
      ((e = .illegal ∧ ∃ x, i = .rdreg x ∧ 8 ≤ x.toNat) ∨ (e = .unseeded ∧ s.seeded = false ∧ needsSeed i = true) ∨
        (e = .invalidRange ∧ s.seeded = true ∧ ∃ a b, i = .randint a b ∧ sint64 b < sint64 a))) ∨
    (s.seeded = true ∧ i = .next ∧ after i s = nextSeeded s) ∨
    (s.seeded = true ∧ i = .random ∧ after i s = randomSeeded s) ∨
    (s.seeded = true ∧ ∃ n, i = .randbytes n ∧ after i s = randbytesSeeded n.toNat s) ∨
    (s.seeded = true ∧ ∃ a b, i = .randint a b ∧ sint64 a ≤ sint64 b ∧
      after i s = randintTurn (randintWork (sint64 a) (sint64 b)) s) ∨
    (∃ x v, i = .rdreg x ∧ x.toNat < 8 ∧ (needsSeed i = true → s.seeded = true) ∧ readReg x.toNat s = some v ∧
      after i s = respond .ok (le64 v) s) := by
  cases i with
  | seed k => exact .inl ⟨rfl, k, s, rfl, .inl rfl⟩
  | reseed k => exact .inl ⟨rfl, k, s, rfl, .inl rfl⟩
  | seede => exact .inl ⟨rfl, _, _, rfl, .inr ⟨rfl, rfl⟩⟩
  | next =>
    cases hs : s.seeded
    · exact .inr (.inl ⟨rfl, _, whenSeeded_of_unseeded hs, .inr (.inl ⟨rfl, rfl, rfl⟩)⟩)
    · exact .inr (.inr (.inl ⟨rfl, rfl, whenSeeded_of_seeded hs⟩))
  | random =>
    cases hs : s.seeded
    · exact .inr (.inl ⟨rfl, _, whenSeeded_of_unseeded hs, .inr (.inl ⟨rfl, rfl, rfl⟩)⟩)
    · exact .inr (.inr (.inr (.inl ⟨rfl, rfl, whenSeeded_of_seeded hs⟩)))
  | randbytes n =>
    cases hs : s.seeded
    · exact .inr (.inl ⟨rfl, _, whenSeeded_of_unseeded hs, .inr (.inl ⟨rfl, rfl, rfl⟩)⟩)
    · exact .inr (.inr (.inr (.inr (.inl ⟨rfl, n, rfl, whenSeeded_of_seeded hs⟩))))
  | randint a b =>
    cases hs : s.seeded
    · exact .inr (.inl ⟨rfl, _, whenSeeded_of_unseeded hs, .inr (.inl ⟨rfl, rfl, rfl⟩)⟩)
    · by_cases hab : sint64 b < sint64 a
      · refine .inr (.inl ⟨rfl, .invalidRange, ?_, .inr (.inr ⟨rfl, rfl, a, b, rfl, hab⟩)⟩)
        rw [after, whenSeeded_of_seeded hs, randintSeeded, if_pos (show boundOperand b < boundOperand a from hab)]
      · refine .inr (.inr (.inr (.inr (.inr (.inl ⟨rfl, a, b, rfl, by omega, ?_⟩)))))
        rw [after, whenSeeded_of_seeded hs, randintSeeded, if_neg (show ¬ boundOperand b < boundOperand a from hab)]
        rfl
  | rdreg x =>
    rcases rdregState_cases (indexOperand x) s with ⟨h, h'⟩ | ⟨h, hs, h'⟩ | ⟨h, hs, v, hv, h'⟩
    · exact .inr (.inl ⟨rfl, _, h', .inl ⟨rfl, x, rfl, h⟩⟩)
    · exact .inr (.inl ⟨rfl, _, h', .inr (.inl ⟨rfl, hs, decide_eq_true h⟩)⟩)
    · exact .inr (.inr (.inr (.inr (.inr (.inr
        ⟨x, v, rfl, h, fun hn => hs (of_decide_eq_true hn), hv, h'⟩)))))

/-- A command sets `seeded` if it seeds, and never clears it (10_state.md R34). -/
theorem after_seeded (i : Instr) (s : State) : (after i s).seeded = (s.seeded || isSeeding i) := by
  rcases after_cases i s with ⟨h, k, u, h', -⟩ | ⟨h, e, h', -⟩ | ⟨hs, rfl, h⟩ | ⟨hs, rfl, h⟩ | ⟨hs, n, rfl, h⟩ |
    ⟨hs, a, b, rfl, -, h⟩ | ⟨x, v, rfl, -, -, -, h⟩
  · simp [h', h]
  · simp [h', h]
  · simp [h, hs, nextSeeded]
  · simp [h, hs, randomSeeded]
  · simp [h, hs, randbytesSeeded]
  · rw [h]
    rcases randintTurn_cases (randintWork (sint64 a) (sint64 b)) s with ⟨_, h⟩ | ⟨_, h⟩ <;> simp [h, hs]
  · simp [h, isSeeding]

/-- The state a step leaves. -/
def stepState (s : State) : State :=
  match fetch s with
  | .idle => s
  | .reset t => applyReset t
  | .resume w t => randintTurn w t
  | .illegal t => raiseError .illegal t
  | .run i t => after i t

theorem step_eq (s : State) : step s = .next (stepState s) := by
  unfold step stepState
  cases fetch s <;> simp [exec_eq_after]

theorem step_next_iff (s t : State) : step s = .next t ↔ t = stepState s := by
  rw [step_eq]
  constructor
  · intro h
    injection h with h
    exact h.symm
  · rintro rfl
    rfl

theorem run_succ_of_step (M : Host.Core) (n : Nat) (s t : M.State) (h : M.step s = .next t) :
    M.run (n + 1) s = M.run n t := by
  rw [Host.Core.run, h]

/-- A run never stops early: it is the step iterated. -/
theorem run_eq (n : Nat) (s : State) : Host.Core.run Sys2Proof.core n s = .next (stepState^[n] s) := by
  induction n generalizing s with
  | zero => rfl
  | succ n ih =>
    rw [run_succ_of_step Sys2Proof.core n s (stepState s) (step_eq s)]
    exact ih (stepState s)

/-- All that a step can do: one case for each way of fetching. -/
theorem stepState_cases (s : State) :
    (s.inflight = none ∧ s.cmdIn = [] ∧ stepState s = s) ∨
    (∃ rest, (s.cmdIn = .resetNow :: rest ∨ (s.inflight = none ∧ s.cmdIn = .resetIdle :: rest)) ∧
      stepState s = applyReset { s with cmdIn := rest }) ∨
    (∃ w, s.inflight = some w ∧ (∀ r, s.cmdIn ≠ .resetNow :: r) ∧ stepState s = randintTurn w s) ∨
    (∃ cw rest e, s.inflight = none ∧ s.cmdIn = .command cw :: rest ∧ decode s.cfg cw = .error e ∧
      stepState s = raiseError .illegal { s with cmdIn := rest }) ∨
    (∃ cw rest i, s.inflight = none ∧ s.cmdIn = .command cw :: rest ∧ decode s.cfg cw = .ok i ∧
      stepState s = after i { s with cmdIn := rest }) := by
  rcases hw : s.inflight with _ | w
  · rcases hc : s.cmdIn with _ | ⟨ev, rest⟩
    · exact .inl ⟨rfl, rfl, by simp [stepState, fetch, hw, hc]⟩
    · rcases ev with cw | _ | _
      · rcases hd : decode s.cfg cw with e | i
        · exact .inr (.inr (.inr (.inl ⟨cw, rest, e, rfl, rfl, hd, by simp [stepState, fetch, hw, hc, hd]⟩)))
        · exact .inr (.inr (.inr (.inr ⟨cw, rest, i, rfl, rfl, hd, by simp [stepState, fetch, hw, hc, hd]⟩)))
      · exact .inr (.inl ⟨rest, .inr ⟨rfl, rfl⟩, by simp [stepState, fetch, hw, hc]⟩)
      · exact .inr (.inl ⟨rest, .inl rfl, by simp [stepState, fetch, hw, hc]⟩)
  · by_cases hr : ∃ r, s.cmdIn = .resetNow :: r
    · obtain ⟨r, hr⟩ := hr
      exact .inr (.inl ⟨r, .inl hr, by simp [stepState, fetch, hw, hr]⟩)
    · refine .inr (.inr (.inl ⟨w, rfl, fun r h => hr ⟨r, h⟩, ?_⟩))
      rcases hc : s.cmdIn with _ | ⟨ev, rest⟩
      · simp [stepState, fetch, hw, hc]
      · rcases ev with cw | _ | _
        · simp [stepState, fetch, hw, hc]
        · simp [stepState, fetch, hw, hc]
        · exact absurd ⟨rest, hc⟩ hr

end Sys2Proof.Machine
end

