-- ==== Sys2Proof/Laws/Draw.lean ====
section
/-!
SUPPORT. Laws/Draw.lean: runs of draws, their bytes, and what a draw does not depend on.
-/

namespace Sys2Proof.Machine

theorem drawN_add (j k : Nat) (s : State) : drawN (j + k) s = drawN k (drawN j s) := by
  induction j generalizing s with
  | zero => simp
  | succ j ih => rw [show j + 1 + k = (j + k) + 1 by ring, drawN_succ, drawN_succ, ih]

/-- One more draw after `k` draws. -/
theorem drawN_succ' (k : Nat) (s : State) : drawN (k + 1) s = draw (drawN k s) := by
  rw [drawN_add, drawN_succ, drawN_zero]

/-- The `k+1`-th draw yields what the next draw after `k` draws yields. -/
theorem drawN_out (k : Nat) (s : State) : (drawN (k + 1) s).out = drawOut (drawN k s) := by
  rw [drawN_succ', draw_out]

/-- The little-endian bytes of a draw are the digest bytes it was read from (42_draw.md R165). -/
theorem le64_drawOut (s : State) : le64 (drawOut s) = drawDigest s := by
  rw [drawOut, whiten, le64_fromLE64 _ (by simp), drawDigest]

@[simp] theorem drawBytes_length (k : Nat) (s : State) : (drawBytes k s).length = 8 * k := by
  induction k generalizing s with
  | zero => rfl
  | succ k ih => simp only [drawBytes, List.length_append, le64_length, ih]; ring

/-- The bytes of `k` draws are those of the draws in order. -/
theorem drawBytes_eq (k : Nat) (s : State) :
    drawBytes k s = ((List.range k).map fun j => le64 (drawN (j + 1) s).out).flatten := by
  have h : ∀ j : Nat, (drawN (j + 1) s).out = drawOut (drawN j s) := fun j => drawN_out j s
  simp only [h]
  clear h
  induction k generalizing s with
  | zero => rfl
  | succ k ih =>
    rw [drawBytes, ih, List.range_succ_eq_map, List.map_cons, List.map_map, List.flatten_cons, drawN_zero]
    rfl

/-- Byte `i` of the bytes of `k` draws is byte `i mod 8` of draw `i / 8`. -/
theorem drawBytes_getElem? (k i : Nat) (s : State) (h : i < 8 * k) :
    (drawBytes k s)[i]? = (le64 (drawOut (drawN (i / 8) s)))[i % 8]? := by
  induction k generalizing s i with
  | zero => omega
  | succ k ih =>
    rw [drawBytes, List.getElem?_append, le64_length]
    split
    · next h' => rw [Nat.div_eq_of_lt h', Nat.mod_eq_of_lt h', drawN_zero]
    · next h' =>
      rw [ih _ _ (by omega)]
      obtain ⟨m, rfl⟩ : ∃ m, i = m + 8 := ⟨i - 8, by omega⟩
      rw [Nat.add_sub_cancel, Nat.add_div_right _ (by omega), Nat.add_mod_right, drawN_succ]

/-! ### What a draw does not depend on: another seed, other queues, another response list -/

/-- A run of draws keeps every field that a draw neither reads nor writes. -/
theorem drawN_with (k : Nat) (s : State) (v : Word) (i : Option RandintWork) (c : List HostEvent)
    (r : List Response) :
    drawN k { s with seed := v, inflight := i, cmdIn := c, rspOut := r }
      = { drawN k s with seed := v, inflight := i, cmdIn := c, rspOut := r } := by
  induction k generalizing s with
  | zero => rfl
  | succ k ih => rw [drawN_succ, drawN_succ, ← ih (draw s)]; rfl

/-- The bytes of a run of draws depend on the words, the counter and the build alone. -/
theorem drawBytes_with (k : Nat) (s : State) (v : Word) (i : Option RandintWork) (c : List HostEvent)
    (r : List Response) :
    drawBytes k { s with seed := v, inflight := i, cmdIn := c, rspOut := r } = drawBytes k s := by
  induction k generalizing s with
  | zero => rfl
  | succ k ih => rw [drawBytes, drawBytes, ← ih (draw s)]; rfl

end Sys2Proof.Machine
end

