-- ==== Sys2Proof/Laws/PerInstr.lean ====
section
/-!
SUPPORT. Laws/PerInstr.lean: one lemma per command: the three fields of its command word (30_encoding.md R81, R100).
-/

namespace Sys2Proof.Laws.Encoding

/-- The encoded word holds the command's opcode in OP and its operands in A and B. -/
def Statement (i : Sys2Proof.Instr) : Prop :=
  opField (encode i) = i.opcode ∧ aField (encode i) = i.aOperand ∧ bField (encode i) = i.bOperand

/-- A packed word gives its fields back, whatever the command. -/
theorem statement_of_packWord (i : Sys2Proof.Instr) : Statement i :=
  ⟨opField_packWord _ _ _, aField_packWord _ _ _, bField_packWord _ _ _⟩

theorem seed (k : Word) : Statement (.seed k) := statement_of_packWord _
theorem seede : Statement .seede := statement_of_packWord _
theorem reseed (k : Word) : Statement (.reseed k) := statement_of_packWord _
theorem next : Statement .next := statement_of_packWord _
theorem random : Statement .random := statement_of_packWord _
theorem randint (a b : Word) : Statement (.randint a b) := statement_of_packWord _
theorem randbytes (n : Word) : Statement (.randbytes n) := statement_of_packWord _
theorem rdreg (i : Word) : Statement (.rdreg i) := statement_of_packWord _

end Sys2Proof.Laws.Encoding
end

