-- ==== Sys2Proof/Tests/Slice0.lean ====
section
/-!
SUPPORT. Tests/Slice0.lean: well-formedness, decoding and single-step tests, every expected value taken from spec/ (30_encoding.md
R102, 95_test_vectors.md, 96_test_vectors_commands.md); then one witness for the hypotheses of each obligation.
-/

-- One theorem after the other: the kernel checks of many tests at once would each hold a thread.
set_option Elab.async false

namespace Sys2Proof.Tests

open Sys2Proof Sys2Proof.Machine

/-! ## Helpers -/

/-- A build without the two optional groups (00_scope.md R8, R13). -/
def bareBuild : Config := { buildConfig with hasDerived := false, hasRdreg := false }

/-- The state of V-SEED-8 on the reference build with SHA-256 and PARALLEL. -/
def seeded8 : State := exampleState 0xDEADBEEFCAFEBABE

/-- A state with one command word waiting. -/
def withWord (s : State) (bytes : List Byte) : State := { s with cmdIn := [.command (wordOfBytes bytes)] }

/-- The state after one step. -/
def stepped (s : State) : State :=
  match step s with
  | .next t => t
  | .fault _ => s
  | .refused _ => s

/-- The bytes of the response a step gives to the 17 bytes of a command, if it gives one. -/
def answer (s : State) (bytes : List Byte) : Option (List Byte) :=
  ((stepped (withWord s bytes)).rspOut.drop s.rspOut.length).head?.map Response.bytes

/-- The state after a step on the 17 bytes of a command. -/
def afterBytes (s : State) (bytes : List Byte) : State := stepped (withWord s bytes)

/-! ## Well-formedness: one ill-formed term for each check -/

/-- RANDOM, RANDINT and RANDBYTES in a build without `HAS_DERIVED` (30_encoding.md R92). -/
theorem test_wf_derived_absent : Instr.random.wellFormed bareBuild = false ∧
    (Instr.randint 1 6).wellFormed bareBuild = false ∧ (Instr.randbytes 9).wellFormed bareBuild = false := by decide

/-- RDREG in a build without `HAS_RDREG` (30_encoding.md R92). -/
theorem test_wf_rdreg_absent : (Instr.rdreg 4).wellFormed bareBuild = false := by decide

/-- RDREG with a reserved index (10_state.md R44). -/
theorem test_wf_rdreg_index : (Instr.rdreg 8).wellFormed buildConfig = false ∧
    (Instr.rdreg 0x100000000).wellFormed buildConfig = false := by decide

/-- A well-formed command of each kind. -/
theorem test_wf_accepts : (Instr.seed 0).wellFormed bareBuild = true ∧ Instr.next.wellFormed bareBuild = true ∧
    (Instr.rdreg 7).wellFormed buildConfig = true ∧ (Instr.randint 5 3).wellFormed buildConfig = true := by decide

/-- A constant no admissible mixer has (00_scope.md R10). -/
theorem test_wf_mixer : { buildConfig with mix := { MixParams.reference with m1 := 2 } }.wf = false ∧
    { buildConfig with mix := { MixParams.reference with r2 := 64 } }.wf = false ∧ buildConfig.wf = true := by decide

/-! ## Decoding: words written out from 30_encoding.md R81 and R102, OP then A then B, least significant byte first -/

theorem test_decode_seed :
    decode buildConfig 0x0000000000000000DEADBEEFCAFEBABE01#136 = .ok (.seed 0xDEADBEEFCAFEBABE) := by decide +kernel

theorem test_decode_seede : decode buildConfig 0x0000000000000000000000000000000002#136 = .ok .seede := by decide +kernel

theorem test_decode_reseed :
    decode buildConfig 0x0000000000000000000000000000002A03#136 = .ok (.reseed 42) := by decide +kernel

theorem test_decode_next : decode buildConfig 0x0000000000000000000000000000000004#136 = .ok .next := by decide +kernel

theorem test_decode_random : decode buildConfig 0x0000000000000000000000000000000005#136 = .ok .random := by decide +kernel

theorem test_decode_randint :
    decode buildConfig 0x0000000000000003FFFFFFFFFFFFFFFD06#136 = .ok (.randint (-3) 3) := by decide +kernel

theorem test_decode_randbytes :
    decode buildConfig 0x0000000000000000000000000000001407#136 = .ok (.randbytes 20) := by decide +kernel

theorem test_decode_rdreg :
    decode buildConfig 0x0000000000000000000000000000000408#136 = .ok (.rdreg 4) := by decide +kernel

/-- Reserved opcodes and absent groups (30_encoding.md R92), and 16 bytes are too few (R84). -/
theorem test_decode_refuses :
    decode buildConfig 0#136 = .error (.reservedOpcode 0x00) ∧ decode buildConfig 9#136 = .error (.reservedOpcode 0x09) ∧
    decode bareBuild 5#136 = .error (.absentGroup 0x05) ∧ decode bareBuild 8#136 = .error (.absentGroup 0x08) ∧
    decodeBytes buildConfig (List.replicate 16 4) = .error (.tooShort 16) := by decide +kernel

/-! ## Single steps -/

/-- V-SEED-11: `sm + 2` wraps to 0. -/
theorem test_seed_wraps :
    let t := afterBytes State.reset [0x01, 0x17, 0x12, 0x92, 0xA9, 0xFF, 0xD6, 0x10, 0x4F, 0, 0, 0, 0, 0, 0, 0, 0]
    t.s0 = 0xE4D971771B652C20 ∧ t.s1 = 0xE220A8397B1DCDAF ∧ t.s2 = 0x910A2DEC89025CC1 ∧ t.s3 = 0x975835DE1C9756CE ∧
      t.counter = 1 ∧ t.out = 0 ∧ t.seeded = true := by decide +kernel

/-- V-SEED-12: the entropy reply is read least significant byte first. -/
theorem test_seede_reply :
    let t := afterBytes { State.reset with entIn := [#v[1, 2, 3, 4, 5, 6, 7, 8]] }
      [0x02, 0, 0, 0, 0, 0, 0, 0, 0, 0, 0, 0, 0, 0, 0, 0, 0]
    t.seed = 0x0807060504030201 ∧ t.s0 = 0x5253B1642B0D6245 ∧ t.entIn = [] := by decide +kernel

/-- V-SEED-4 over another state: RESEED 42. -/
theorem test_reseed_replaces :
    let t := afterBytes seeded8 [0x03, 0x2A, 0, 0, 0, 0, 0, 0, 0, 0, 0, 0, 0, 0, 0, 0, 0]
    t.s0 = 0xFA4F945599F9054A ∧ t.s3 = 0x91FDEEDF58A08B3F ∧ t.seed = 42 := by decide +kernel

/-- V-ERR-2, V-ERR-21 and V-ERR-22: NEXT unseeded, then two draws after SEED 0, the second word's operands all ones. -/
theorem test_next_draws :
    answer State.reset [0x04, 0, 0, 0, 0, 0, 0, 0, 0, 0, 0, 0, 0, 0, 0, 0, 0] = some [0x02] ∧
    answer (exampleState 0) [0x04, 0, 0, 0, 0, 0, 0, 0, 0, 0, 0, 0, 0, 0, 0, 0, 0]
      = some [0x00, 0xC5, 0xFB, 0x1A, 0x97, 0x79, 0x33, 0x82, 0x96] ∧
    answer (drawN 1 (exampleState 0)) (0x04 :: List.replicate 16 0xFF)
      = some [0x00, 0xB8, 0xCE, 0xD6, 0x27, 0x76, 0xDE, 0xD6, 0xDF] := by decide +kernel

/-- Program P4, SHA-256 and SEQUENTIAL: the first draw after that entropy seed. -/
theorem test_next_sequential :
    let c := { buildConfig with digest := .sha256, xsMode := .sequential }
    let t := afterBytes (seedProc 0x0807060504030201 { State.reset with cfg := c })
      [0x04, 0, 0, 0, 0, 0, 0, 0, 0, 0, 0, 0, 0, 0, 0, 0, 0]
    t.s0 = 0x08D79271DC5281A3 ∧ t.s1 = 0x3F72B54C248C97B8 ∧ t.s2 = 0x6B4E84FCD197762B ∧ t.s3 = 0x5D1F2C968ABF7336 ∧
      t.counter = 0x517CC1B727220A96 ∧ t.out = 0x3E3076EE6EED0B1F := by decide +kernel

/-- V-RANDOM-1 rows 1 and 2. -/
theorem test_random_draws :
    answer seeded8 [0x05, 0, 0, 0, 0, 0, 0, 0, 0, 0, 0, 0, 0, 0, 0, 0, 0]
      = some [0x00, 0x09, 0xA0, 0x91, 0xAC, 0xBB, 0x84, 0xE3, 0x3F] ∧
    answer (drawN 1 seeded8) [0x05, 0, 0, 0, 0, 0, 0, 0, 0, 0, 0, 0, 0, 0, 0, 0, 0]
      = some [0x00, 0xC8, 0xC1, 0x77, 0x6F, 0x2A, 0xD1, 0xD3, 0x3F] := by decide +kernel

/-- V-RANDOM-2: the corner cases of the bit pattern. -/
theorem test_random_bits :
    randomBits 0x7FF = 0 ∧ randomBits 0x800 = 0x3CA0000000000000 ∧ randomBits 0x1800 = 0x3CB8000000000000 ∧
    randomBits 0x4000000000000000 = 0x3FD0000000000000 ∧ randomBits 0xC000000000000000 = 0x3FE8000000000000 ∧
    randomBits 0xFFFFFFFFFFFFFFFF = 0x3FEFFFFFFFFFFFFF := by decide +kernel

/-- V-RANDINT-1 rows 1 and 3, V-ERR-15 and V-ERR-4. -/
theorem test_randint_answers :
    answer seeded8 [0x06, 1, 0, 0, 0, 0, 0, 0, 0, 6, 0, 0, 0, 0, 0, 0, 0] = some [0x00, 4, 0, 0, 0, 0, 0, 0, 0] ∧
    answer (drawN 2 seeded8) [0x06, 0xFD, 0xFF, 0xFF, 0xFF, 0xFF, 0xFF, 0xFF, 0xFF, 3, 0, 0, 0, 0, 0, 0, 0]
      = some [0x00, 0xFF, 0xFF, 0xFF, 0xFF, 0xFF, 0xFF, 0xFF, 0xFF] ∧
    answer seeded8 [0x06, 0, 0, 0, 0, 0, 0, 0, 0, 0xFF, 0xFF, 0xFF, 0xFF, 0xFF, 0xFF, 0xFF, 0xFF] = some [0x01] ∧
    answer State.reset [0x06, 5, 0, 0, 0, 0, 0, 0, 0, 3, 0, 0, 0, 0, 0, 0, 0] = some [0x02] := by decide +kernel

/-- Program P5: the first draw is rejected and the second accepted. -/
theorem test_randint_rejects :
    let s := afterBytes seeded8 [0x06, 0, 0, 0, 0, 0, 0, 0, 0xC0, 0, 0, 0, 0, 0, 0, 0, 0x40]
    s.rspOut = [] ∧ s.out = 0x9C25DD648D004A5D ∧ s.inflight = some ⟨-(2 ^ 62), 2 ^ 63 + 1, 0x8000000000000001⟩ ∧
    (stepped s).rspOut.map Response.bytes = [[0x00, 0x8C, 0x27, 0x07, 0xDF, 0xBD, 0xA9, 0x44, 0x0F]] ∧
    (stepped s).counter = 0xA2F9836E4E44152B ∧ (stepped s).inflight = none := by decide +kernel

/-- Program P3 command 3: RANDBYTES 9 after SEED 42. -/
theorem test_randbytes_nine :
    answer (exampleState 42) [0x07, 0x09, 0, 0, 0, 0, 0, 0, 0, 0, 0, 0, 0, 0, 0, 0, 0]
      = some [0x00, 0xED, 0x84, 0x14, 0x43, 0xF1, 0x6B, 0xD9, 0x0D, 0x4C] := by decide +kernel

/-- Program P3 command 2 and V-ERR-5: RANDBYTES 0 draws nothing, and is refused unseeded. -/
theorem test_randbytes_zero :
    answer (exampleState 42) [0x07, 0, 0, 0, 0, 0, 0, 0, 0, 0, 0, 0, 0, 0, 0, 0, 0] = some [0x00] ∧
    (afterBytes (exampleState 42) [0x07, 0, 0, 0, 0, 0, 0, 0, 0, 0, 0, 0, 0, 0, 0, 0, 0]).counter = 1 ∧
    answer State.reset [0x07, 0, 0, 0, 0, 0, 0, 0, 0, 0, 0, 0, 0, 0, 0, 0, 0] = some [0x02] := by decide +kernel

/-- V-ERR-7, V-ERR-8, V-ERR-10 and V-ERR-18: RDREG at the indices where its checks meet. -/
theorem test_rdreg_checks :
    answer State.reset [0x08, 0x05, 0, 0, 0, 0, 0, 0, 0, 0, 0, 0, 0, 0, 0, 0, 0] = some [0x02] ∧
    answer State.reset [0x08, 0x06, 0, 0, 0, 0, 0, 0, 0, 0, 0, 0, 0, 0, 0, 0, 0] = some [0, 0, 0, 0, 0, 0, 0, 0, 0] ∧
    answer State.reset [0x08, 0x08, 0, 0, 0, 0, 0, 0, 0, 0, 0, 0, 0, 0, 0, 0, 0] = some [0x03] ∧
    answer seeded8 [0x08, 0, 0, 0, 0, 0x01, 0, 0, 0, 0, 0, 0, 0, 0, 0, 0, 0] = some [0x03] := by decide +kernel

/-- Program P2 commands 6 and 7: the counter and `s0` after SEED 0. -/
theorem test_rdreg_reads :
    answer (exampleState 0) [0x08, 0x04, 0, 0, 0, 0, 0, 0, 0, 0, 0, 0, 0, 0, 0, 0, 0] = some [0, 1, 0, 0, 0, 0, 0, 0, 0] ∧
    answer (exampleState 0) [0x08, 0x00, 0, 0, 0, 0, 0, 0, 0, 0, 0, 0, 0, 0, 0, 0, 0]
      = some [0x00, 0x7F, 0xE9, 0x37, 0xAF, 0x01, 0xF5, 0x98, 0x2A] := by decide +kernel

/-- V-ERR-11 and V-ERR-13: the all-zero and the all-ones word are no commands. -/
theorem test_illegal_words :
    answer State.reset (List.replicate 17 0) = some [0x03] ∧ answer State.reset (List.replicate 17 0xFF) = some [0x03] := by
  decide +kernel

/-! ## The host's two probes -/

theorem test_table_word : decodeTableWord 136 0x0609 = none ∧ decodeTableWord 136 0x0608 = some (.rdreg 6) ∧
    decodeTableWord 8 0x04 = some .next := by decide +kernel

theorem test_fetch_word : step (State.reset.withFetchWord 136 0x2A01)
    = exec (.seed 42) State.reset := by rfl

/-! ## Witnesses: for each obligation with hypotheses, an input that meets them, at the ends of each clause -/

/-- A command word waiting in an idle seeded core: `RANDINT -2^62, 2^62` (program P5). -/
def wideRandint : State := withWord seeded8 (encodeBytes (.randint 0xC000000000000000 0x4000000000000000))

/-- The same command in progress, before its first draw. -/
def wideInProgress : State := { seeded8 with inflight := some (randintWork (-(2 ^ 62)) (2 ^ 62)) }

/-- A build with other admissible constants, in the other mode (00_scope.md R10, R11). -/
def otherBuild : Config :=
  { buildConfig with mix := { gamma := 1, r1 := 1, m1 := 3, r2 := 63, m2 := 5, r3 := 32 }, xsMode := .sequential }

theorem test_witness_DecodeInvertsEncode : (Instr.seed 1).present bareBuild = true ∧
    (Instr.randint 5 3).present buildConfig = true ∧ (Instr.rdreg 9).present buildConfig = true := by decide

theorem test_witness_UnusedFieldsIgnored : ((0x02 : Byte) = 0x02 ∨ (0x02 : Byte) = 0x04 ∨ (0x02 : Byte) = 0x05) ∧
    ((0x08 : Byte) = 0x01 ∨ (0x08 : Byte) = 0x03 ∨ (0x08 : Byte) = 0x07 ∨ (0x08 : Byte) = 0x08) ∧
    (Instr.next = .seede ∨ Instr.next = .next ∨ Instr.next = .random) := by decide

/-- One word for each way to be reserved, at the ends of the ranges. -/
theorem test_witness_ReservedEncodingsAnswerIllegal :
    let s := withWord State.reset (List.replicate 17 0)
    let b := { State.reset with cfg := bareBuild }
    s.inflight = none ∧ s.cmdIn = [.command 0] ∧ opField 0 = 0x00 ∧ 9 ≤ (opField 0x09).toNat ∧ 9 ≤ (opField 0xFF).toNat ∧
    (5 ≤ (opField 0x05).toNat ∧ (opField 0x07).toNat ≤ 7 ∧ b.cfg.hasDerived = false) ∧
    (opField 0x08 = 0x08 ∧ b.cfg.hasRdreg = false) ∧ (opField 0x0808 = 0x08 ∧ 8 ≤ (aField 0x0808).toNat) := by
  decide +kernel

theorem test_witness_PseudoCommandsExpand : Text.command "SEED_OR_RANDOM".toList [] ≠ none ∧
    Text.regName "status".toList ≠ none := by decide +kernel

theorem test_witness_LittleEndianBytes : ([1, 2, 3, 4, 5, 6, 7, 8] : List Byte).length = 8 ∧
    fromLE64 [1, 2, 3, 4, 5, 6, 7, 8] = 0x0807060504030201 := by decide +kernel

theorem test_witness_SignedReading : (0x7FFFFFFFFFFFFFFF : Word).toNat < 2 ^ 63 ∧
    2 ^ 63 ≤ (0x8000000000000000 : Word).toNat ∧ sint64 0x7FFFFFFFFFFFFFFF = 2 ^ 63 - 1 ∧
    sint64 0x8000000000000000 = -(2 ^ 63) ∧ -(2 ^ 63) ≤ (-1 : Int) ∧ (-1 : Int) < 2 ^ 64 ∧
    toU64 (-1) = 0xFFFFFFFFFFFFFFFF := by decide +kernel

theorem test_witness_MixerIsBijective : MixParams.reference.wf = true ∧ otherBuild.mix.wf = true ∧
    MixParams.reference.m1.getLsbD 0 = true ∧ 1 ≤ MixParams.reference.r3 := by decide

theorem test_witness_MixerCornerCases : MixParams.reference.wf = true ∧
    mix64 MixParams.reference 0x61C8864680B583EB = 0 := by decide +kernel

theorem test_witness_SeedWritesWholeState : State.reset.cfg.mix = MixParams.reference := by decide

theorem test_witness_SeedeSeedsFromOneReply :
    let s := { State.reset with entIn := [#v[1, 2, 3, 4, 5, 6, 7, 8]] }
    s.entIn = #v[1, 2, 3, 4, 5, 6, 7, 8] :: [] ∧ State.reset.entIn = [] ∧ s.cfg.mix = MixParams.reference := by decide

theorem test_witness_ReseedReplacesState : seeded8.cfg.mix = MixParams.reference ∧ seeded8.seeded = true := by decide

theorem test_witness_SeedingForgetsThePast : seeded8.cfg = (exampleState 0).cfg ∧ seeded8.s0 ≠ (exampleState 0).s0 := by
  decide +kernel

theorem test_witness_SeededWordsDistinct : State.reset.cfg.wf = true ∧
    exec (.seed 7) State.reset = .next (after (.seed 7) State.reset) := ⟨by decide, rfl⟩

theorem test_witness_ReseedIsolation :
    let s := { wideRandint with rspOut := [⟨.ok, []⟩] }
    let t := { withWord (drawN 3 seeded8) (encodeBytes (.randint 0xC000000000000000 0x4000000000000000)) with seed := 9 }
    s.cfg = t.cfg ∧ s.inflight = t.inflight ∧ s.cmdIn = t.cmdIn ∧ s.entIn = t.entIn ∧ s.entDrawn = t.entDrawn ∧
    s.epoch = t.epoch ∧ exec (.reseed 5) s = .next (after (.reseed 5) s) ∧ exec (.seed 5) t = .next (after (.seed 5) t) := by
  exact ⟨by decide +kernel, by decide +kernel, by decide +kernel, by decide +kernel, by decide +kernel,
    by decide +kernel, exec_eq_after _ _, exec_eq_after _ _⟩

theorem test_witness_WhiteningBufferLayout : (List.replicate 40 (0xA5 : Byte)).length = 40 ∧
    exec (.seed 7) State.reset = .next (after (.seed 7) State.reset) := ⟨by decide, rfl⟩

theorem test_witness_DrawProcedure : (List.replicate 40 (0xA5 : Byte)).length = 40 := by decide

theorem test_witness_DrawUnderParallel : seeded8.cfg.xsMode = .parallel := by decide

theorem test_witness_NextDrawsOnce : seeded8.seeded = true ∧ State.reset.seeded = false := by decide

theorem test_witness_PayloadIsDigestPrefix : seeded8.seeded = true ∧ (0 : Nat) < 2 ∧ (1 : Nat) < 2 := by decide

theorem test_witness_CounterWalk : exec (.seed 7) State.reset = .next (after (.seed 7) State.reset) ∧
    (0 : Nat) < 2 ^ 64 ∧ (2 ^ 64 - 1 : Nat) < 2 ^ 64 := ⟨rfl, by decide, by decide⟩

theorem test_witness_RandomDrawsOnce : buildConfig.hasDerived = true ∧ seeded8.seeded = true ∧
    State.reset.seeded = false := by decide

theorem test_witness_F64BitsExact : (0 : Nat) < 2 ^ 53 ∧ (1 : Nat) < 2 ^ 53 ∧ (1 : Nat) ≠ 0 ∧
    (2 ^ 53 - 1 : Nat) < 2 ^ 53 := by decide

theorem test_witness_RandomNumerics : randomBits 0x7FF = 0 ∧
    ((randomBits 0x7FF).extractLsb' 52 11).toNat = 0 := by decide +kernel

theorem test_witness_RandintArithmetic : sint64 0x8000000000000000 ≤ sint64 0x7FFFFFFFFFFFFFFF ∧
    limitOf (spanOf (sint64 0x8000000000000000) (sint64 0x7FFFFFFFFFFFFFFF)) = 2 ^ 64 ∧ sint64 5 ≤ sint64 5 := by
  decide +kernel

/-- An accepted and a rejected first draw. -/
theorem test_witness_RandintFirstTurn : seeded8.seeded = true ∧ sint64 1 ≤ sint64 6 ∧
    (draw seeded8).out.toNat < limitOf (spanOf (sint64 1) (sint64 6)) ∧
    sint64 0xC000000000000000 ≤ sint64 0x4000000000000000 ∧
    limitOf (spanOf (sint64 0xC000000000000000) (sint64 0x4000000000000000)) ≤ (draw seeded8).out.toNat := by
  decide +kernel

/-- Program P5, with one rejected draw. -/
theorem test_witness_RandintRejectsThenAnswers :
    let a : Word := 0xC000000000000000
    let b : Word := 0x4000000000000000
    let cw := encode (.randint a b)
    wideRandint.inflight = none ∧ wideRandint.cmdIn = [.command cw] ∧
    decode wideRandint.cfg cw = .ok (.randint a b) ∧ wideRandint.seeded = true ∧ sint64 a ≤ sint64 b ∧
    (∀ j, j < 1 → limitOf (spanOf (sint64 a) (sint64 b)) ≤ (drawN (j + 1) wideRandint).out.toNat) ∧
    (drawN (1 + 1) wideRandint).out.toNat < limitOf (spanOf (sint64 a) (sint64 b)) := by decide +kernel

theorem test_witness_RandintRejectsThenAnswers_rest : ∀ r : List HostEvent, ([] : List HostEvent) ≠ .resetNow :: r := by
  intro r h
  cases h

theorem test_witness_RandintWaitsWhileRejected :
    wideInProgress.inflight = some (randintWork (-(2 ^ 62)) (2 ^ 62)) ∧ wideInProgress.cmdIn = [] ∧
    ∀ j, j < 1 → (randintWork (-(2 ^ 62)) (2 ^ 62)).limit ≤ (drawN (j + 1) wideInProgress).out.toNat := by decide +kernel

theorem test_witness_RandintCornerCases : seeded8.seeded = true ∧ (1 : Nat) ≤ 2 ^ 64 := by decide

theorem test_witness_RandbytesAnswersBytes : buildConfig.hasDerived = true ∧ seeded8.seeded = true ∧
    State.reset.seeded = false := by decide

theorem test_witness_RandbytesPayloadBytes : seeded8.seeded = true ∧ (8 : Nat) < 9 ∧
    (randbytesPayload 9 seeded8)[8]? = some 0x8C := by decide +kernel

/-- The indices where the clauses meet: 5, 6, 7 and 8. -/
theorem test_witness_RdregReadsRegister : buildConfig.hasRdreg = true ∧ 8 ≤ (8 : Word).toNat ∧ (5 : Word).toNat ≤ 5 ∧
    State.reset.seeded = false ∧ seeded8.seeded = true ∧ ¬ (6 : Word).toNat ≤ 5 ∧ ¬ 8 ≤ (7 : Word).toNat := by decide

/-- One input for each of its clauses. -/
theorem test_witness_RdregCornerCases :
    let e := { State.reset with entIn := [#v[1, 2, 3, 4, 5, 6, 7, 8]] }
    State.reset.seeded = false ∧ State.reset.out = 0 ∧ (5 : Word).toNat ≤ 5 ∧
    isSeeding .seede = true ∧ exec .seede State.reset = .next (after .seede State.reset) ∧ seeded8.seeded = true ∧
    exec .random seeded8 = .next (after .random seeded8) ∧
    exec (.randbytes 9) seeded8 = .next (after (.randbytes 9) seeded8) ∧
    e.entIn = #v[1, 2, 3, 4, 5, 6, 7, 8] :: [] ∧ exec .seede e = .next (after .seede e) :=
  ⟨rfl, rfl, by decide, rfl, rfl, rfl, rfl, exec_eq_after _ _, rfl, rfl⟩

theorem test_witness_SeedReadOnlyByRdreg : isSeeding .next = false ∧ Instr.next ≠ .rdreg 5 ∧ Instr.rdreg 4 ≠ .rdreg 5 ∧
    exec .next seeded8 = .next (after .next seeded8) ∧ seeded8.seeded = true :=
  ⟨rfl, by decide, by decide, rfl, rfl⟩

/-- One answer of each error status, and a word that is no command. -/
theorem test_witness_StatusCodes :
    (after (.randint 5 3) seeded8).rspOut = seeded8.rspOut ++ [⟨.errInvalidRange, []⟩] ∧
    (after .next State.reset).rspOut = State.reset.rspOut ++ [⟨.errUnseeded, []⟩] ∧
    (after (.rdreg 8) seeded8).rspOut = seeded8.rspOut ++ [⟨.errIllegal, []⟩] ∧
    exec .next State.reset = .next (after .next State.reset) ∧
    decode State.reset.cfg 0 = .error (.reservedOpcode 0x00) :=
  ⟨by decide +kernel, by decide +kernel, by decide +kernel, rfl, rfl⟩

/-- NEXT on an unseeded core answers an error. -/
theorem test_witness_ErrorsLeaveTheState :
    let s := withWord State.reset (encodeBytes .next)
    step s = .next (stepState s) ∧ (stepState s).rspOut = s.rspOut ++ [⟨.errUnseeded, []⟩] ∧ Status.errUnseeded ≠ .ok :=
  ⟨step_eq _, by decide +kernel, by decide⟩

theorem test_witness_UnseededRaisedExactly :
    exec .next State.reset = .next (after .next State.reset) ∧ State.reset.seeded = false ∧ needsSeed .next = true ∧
    isSeeding .seede = true ∧ exec .seede State.reset = .next (after .seede State.reset) ∧ seeded8.seeded = true ∧
    noResetNext seeded8 ∧ step seeded8 = .next (stepState seeded8) := by
  refine ⟨rfl, rfl, rfl, rfl, rfl, rfl, fun r => ⟨?_, ?_⟩, step_eq _⟩ <;> exact fun h => nomatch h

theorem test_witness_InvalidRangeRaisedExactly : exec (.randint 5 3) seeded8 = .next (after (.randint 5 3) seeded8) ∧
    seeded8.seeded = true ∧ sint64 3 < sint64 5 := ⟨rfl, rfl, by decide⟩

theorem test_witness_ErrorPriority :
    let s := withWord State.reset (List.replicate 17 0)
    s.inflight = none ∧ s.cmdIn = [.command 0] ∧ decode s.cfg 0 = .error (.reservedOpcode 0x00) ∧
    (Instr.rdreg 9).indexLegal = false ∧ (Instr.rdreg 0).indexLegal = true ∧ needsSeed (.rdreg 0) = true ∧
    State.reset.seeded = false ∧ seeded8.seeded = true ∧ sint64 3 < sint64 5 := by decide +kernel

/-- Both sides of a RANDINT turn, and a command that answers. -/
theorem test_witness_ResponseForms : exec .next seeded8 = .next (after .next seeded8) ∧
    (draw seeded8).out.toNat < (randintWork 1 6).limit ∧
    (randintWork (-(2 ^ 62)) (2 ^ 62)).limit ≤ (draw seeded8).out.toNat :=
  ⟨rfl, by decide +kernel, by decide +kernel⟩

/-- One command for each clause of the frame. -/
theorem test_witness_CommandFrames : exec (.randbytes 9) seeded8 = .next (after (.randbytes 9) seeded8) ∧
    Instr.randbytes 9 ≠ .seede ∧ isSeeding (.reseed 1) = true ∧ isSeeding (.randbytes 9) = false ∧
    seeded8.seeded = true ∧ State.reset.seeded = false ∧ sint64 3 < sint64 5 ∧
    (∀ a b, Instr.randbytes 9 ≠ .randint a b) :=
  ⟨exec_eq_after _ _, by decide, rfl, rfl, rfl, rfl, by decide, fun _ _ h => nomatch h⟩

theorem test_witness_StepRunsDecodedCommand : wideRandint.inflight = none ∧
    wideRandint.cmdIn = [.command (encode (.randint 0xC000000000000000 0x4000000000000000))] ∧
    decode wideRandint.cfg (encode (.randint 0xC000000000000000 0x4000000000000000))
      = .ok (.randint 0xC000000000000000 0x4000000000000000) := by decide +kernel

theorem test_witness_IdleHoldsAndFetchTakesWord : seeded8.inflight = none ∧ seeded8.cmdIn = [] ∧ 0x2A01 < 2 ^ 136 ∧
    decode seeded8.cfg (BitVec.ofNat 136 0x2A01) = .ok (.seed 42) := by decide +kernel

theorem test_witness_ResetEvents :
    let s := { wideInProgress with cmdIn := [.resetNow] }
    let t := { seeded8 with cmdIn := [.resetIdle] }
    s.cmdIn = .resetNow :: [] ∧ t.inflight = none ∧ t.cmdIn = .resetIdle :: [] := by decide

/-- A reset of a seeded core, and a seeding of a core just reset. -/
theorem test_witness_SeededChangesOnlySo :
    let s := { seeded8 with cmdIn := [.resetIdle] }
    let t := withWord State.reset (encodeBytes (.seed 42))
    s.seeded = true ∧ step s = .next (stepState s) ∧ (stepState s).seeded = false ∧
    t.seeded = false ∧ step t = .next (stepState t) ∧ (stepState t).seeded = true :=
  ⟨rfl, step_eq _, rfl, rfl, step_eq _, by decide +kernel⟩

theorem test_witness_InvariantKept : wideInProgress.Inv ∧ wideRandint.Inv ∧ State.reset.Inv ∧
    step wideInProgress = .next (stepState wideInProgress) :=
  ⟨by decide +kernel, by decide +kernel, by decide +kernel, step_eq _⟩

/-- Two unseeded states with different unset registers. -/
theorem test_witness_UnsetRegistersUnobservable :
    let s := { withWord State.reset (encodeBytes .next) with s0 := 1, seed := 2 }
    let t := { withWord State.reset (encodeBytes .next) with s0 := 3, counter := 4 }
    s.inflightOk = true ∧ s.archEq t ∧ s.sameInterfaces t ∧ s.s0 ≠ t.s0 := by
  refine ⟨rfl, ⟨rfl, rfl, fun h => nomatch h⟩, ⟨rfl, rfl, rfl, rfl, rfl, rfl, rfl⟩, by decide⟩

theorem test_witness_HFoldOutput : ((List.range 40).map (BitVec.ofNat 8)).length = 40 := by decide

theorem test_witness_Sha256Padding : (List.replicate 40 (0 : Byte)).length = 40 := by decide

end Sys2Proof.Tests
end

section
/-!
PROOFS. The scope chapter (00_scope.md R18, R19): byte order and the signed reading of a word.
-/

namespace Sys2Proof

/-! ### Byte order (R18) -/

theorem le64_getElem? (v : Word) {i : Nat} (hi : i < 8) : (le64 v)[i]? = some (v.extractLsb' (8 * i) 8) := by
  simp [le64, leBytes, hi]

/-- The recursion of `fromLE` as the sum that R18 writes, for a sequence of any length. -/
theorem fromLE_eq_sum (bs : List Byte) :
    fromLE bs = ∑ i ∈ Finset.range bs.length, (bs.getD i 0).toNat * 2 ^ (8 * i) := by
  induction bs with
  | nil => rfl
  | cons b bs ih =>
    have shift (i : Nat) : ((b :: bs).getD (i + 1) 0).toNat * 2 ^ (8 * (i + 1))
        = 256 * ((bs.getD i 0).toNat * 2 ^ (8 * i)) := by
      rw [List.getD_cons_succ, Nat.mul_succ, pow_add]; ring
    rw [fromLE, ih, List.length_cons, Finset.sum_range_succ', Finset.sum_congr rfl fun i _ => shift i,
      ← Finset.mul_sum, List.getD_cons_zero, Nat.mul_zero, pow_zero, Nat.mul_one, Nat.add_comm]

/-- Eight bytes fit a word, so `fromLE64` loses nothing. -/
theorem fromLE64_toNat (b : List Byte) (h : b.length = 8) : (fromLE64 b).toNat = fromLE b := by
  have hlt := fromLE_lt b
  rw [h] at hlt
  rw [fromLE64, BitVec.toNat_ofNat]
  exact Nat.mod_eq_of_lt hlt

/-- Settles O8: the sum is `fromLE_eq_sum`, and the two inverses are `fromLE64_le64` and `le64_fromLE64`. -/
theorem littleEndianBytes : Obligations.LittleEndianBytes := by
  refine ⟨fun v => ⟨le64_length v, fun i => le64_getElem? v, fromLE64_le64 v⟩,
    fun b h => ⟨?_, le64_fromLE64 b h⟩⟩
  rw [fromLE64_toNat b h, fromLE_eq_sum, h]

/-! ### Signed reading (R19) -/

theorem sint64_of_lt {v : Word} (h : v.toNat < 2 ^ 63) : sint64 v = v.toNat := if_pos h

theorem sint64_of_le {v : Word} (h : 2 ^ 63 ≤ v.toNat) : sint64 v = (v.toNat : Int) - 2 ^ 64 :=
  if_neg (Nat.not_lt.mpr h)

/-- R19's signed reading is the two's complement reading of the library. -/
theorem sint64_eq_toInt (v : Word) : sint64 v = v.toInt := by
  rw [BitVec.toInt_eq_toNat_cond]
  rcases Nat.lt_or_ge v.toNat (2 ^ 63) with h | h
  · rw [sint64_of_lt h, if_pos (by omega)]
  · rw [sint64_of_le h, if_neg (by omega)]; rfl

theorem sint64_ge (v : Word) : -(2 ^ 63) ≤ sint64 v := sint64_eq_toInt v ▸ BitVec.le_toInt v

theorem sint64_lt (v : Word) : sint64 v < 2 ^ 63 := sint64_eq_toInt v ▸ BitVec.toInt_lt

@[simp] theorem toU64_sint64 (v : Word) : toU64 (sint64 v) = v := by
  rw [sint64_eq_toInt, toU64, BitVec.ofInt_toInt]

/-- `toU64` is the reduction modulo 2^64 for every integer, in R19's range or not. -/
theorem toU64_toNat (z : Int) : ((toU64 z).toNat : Int) = z % 2 ^ 64 := by
  rw [toU64, BitVec.toNat_ofInt, Int.toNat_of_nonneg (Int.emod_nonneg z (by decide))]; rfl

/-- Settles O9: the signed reading is two's complement (`sint64_eq_toInt`), and `toU64` is reduction modulo 2^64. -/
theorem signedReading : Obligations.SignedReading :=
  ⟨fun v => ⟨sint64_of_lt, sint64_of_le, sint64_ge v, sint64_lt v, toU64_sint64 v⟩,
    fun z _ _ => toU64_toNat z⟩

end Sys2Proof
end

section
/-!
PROOFS. The state chapter (10_state.md): the counter's walk (R33) and who writes and reads `seed` (R30).
-/

namespace Sys2Proof.Machine

/-! ### The counter's walk (R33) -/

theorem drawN_counter (k : Nat) (s : State) : (drawN k s).counter = s.counter + BitVec.ofNat 64 k * ctrInc := by
  induction k with
  | zero => simp
  | succ k ih => rw [drawN_succ', draw_counter, ih, BitVec.ofNat_add, add_mul, BitVec.one_mul, add_assoc]

/-- A core that has just been seeded counts from 1. -/
theorem drawN_counter_of_seed {x : Word} {s t : State} (h : exec (.seed x) s = .next t) (k : Nat) :
    (drawN k t).counter = 1 + BitVec.ofNat 64 k * ctrInc := by
  rw [drawN_counter, (exec_next_iff _ s t).mp h]; rfl

/-- `CTR_INC` is odd, so it has an inverse modulo 2^64: this gives the walk its full period. -/
theorem isUnit_ctrInc : IsUnit ctrInc := IsUnit.of_mul_eq_one 0x2040003D780970BD#64 (by decide)

theorem counter_injective {j k : Nat} (hj : j < 2 ^ 64) (hk : k < 2 ^ 64)
    (h : 1 + BitVec.ofNat 64 j * ctrInc = 1 + BitVec.ofNat 64 k * ctrInc) : j = k := by
  have hofNat : BitVec.ofNat 64 j = BitVec.ofNat 64 k := isUnit_ctrInc.mul_left_inj.mp (add_right_inj 1 |>.mp h)
  have htoNat := congrArg BitVec.toNat hofNat
  rwa [BitVec.toNat_ofNat, BitVec.toNat_ofNat, Nat.mod_eq_of_lt hj, Nat.mod_eq_of_lt hk] at htoNat

/-- Settles O28: the walk is `drawN_counter_of_seed` for every `k`, and its full period rests on `isUnit_ctrInc`. -/
theorem counterWalk : Obligations.CounterWalk := by
  refine ⟨fun s t x k h => drawN_counter_of_seed h k, fun j k => counter_injective, by decide, fun s t x h => ?_⟩
  have walk := drawN_counter_of_seed h
  refine ⟨(walk 0).trans ?_, (walk 1).trans ?_, (walk 2).trans ?_, (walk 3).trans ?_, (walk 4).trans ?_⟩ <;> decide

/-! ### Who writes and reads `seed` (R30) -/

/-- `f` neither reads `seed` nor writes it: it commutes with putting another value there. -/
def SeedBlind (f : State → State) : Prop :=
  ∀ (s : State) (v : Word), f { s with seed := v } = { f s with seed := v }

/-- What is blind to `seed` leaves it unchanged. -/
theorem SeedBlind.seed_eq {f : State → State} (hf : SeedBlind f) (s : State) : (f s).seed = s.seed :=
  (congrArg State.seed (hf s s.seed) :)

/-- A check that does not read `seed` may choose between two functions blind to it. -/
theorem SeedBlind.ite {p : State → Prop} [DecidablePred p] {f g : State → State}
    (hp : ∀ (s : State) (v : Word), p { s with seed := v } ↔ p s) (hf : SeedBlind f) (hg : SeedBlind g) :
    SeedBlind fun s => if p s then f s else g s := by
  intro s v
  by_cases h : p s
  · simp only [if_pos h, if_pos ((hp s v).mpr h), hf s v]
  · simp only [if_neg h, if_neg (mt (hp s v).mp h), hg s v]

theorem seedBlind_respond (st : Status) (p : List Byte) : SeedBlind (respond st p) := fun _ _ => rfl

theorem seedBlind_raiseError (e : CoreError) : SeedBlind (raiseError e) := seedBlind_respond _ _

theorem seedBlind_whenSeeded {f : State → State} (hf : SeedBlind f) : SeedBlind (whenSeeded f) :=
  .ite (fun _ _ => Iff.rfl) hf (seedBlind_raiseError _)

theorem seedBlind_nextSeeded : SeedBlind nextSeeded := fun _ _ => rfl

theorem seedBlind_randomSeeded : SeedBlind randomSeeded := fun _ _ => rfl

theorem seedBlind_randintTurn (w : RandintWork) : SeedBlind (randintTurn w) :=
  .ite (fun _ _ => Iff.rfl) (fun _ _ => rfl) (fun _ _ => rfl)

theorem seedBlind_randintSeeded (a b : Int) : SeedBlind (randintSeeded a b) :=
  .ite (fun _ _ => Iff.rfl) (seedBlind_raiseError _) (seedBlind_randintTurn _)

theorem seedBlind_randbytesSeeded (n : Nat) : SeedBlind (randbytesSeeded n) := by
  intro s v
  rw [randbytesSeeded, drawN_with _ s v s.inflight s.cmdIn s.rspOut, drawBytes_with _ s v s.inflight s.cmdIn s.rspOut]
  simp [randbytesSeeded, respond]

theorem seedBlind_dropEntropy : SeedBlind dropEntropy := by
  intro s v
  cases h : s.entIn <;> simp [dropEntropy, h]

/-- Index 5 is the only one at which RDREG reads `seed` (R44). -/
theorem readReg_with_seed {i : Nat} (hi : i ≠ 5) (s : State) (v : Word) :
    readReg i { s with seed := v } = readReg i s :=
  match i, hi with
  | 0, _ | 1, _ | 2, _ | 3, _ | 4, _ | 6, _ | 7, _ | _ + 8, _ => rfl

theorem seedBlind_rdregState {i : Nat} (hi : i ≠ 5) : SeedBlind (rdregState i) := by
  intro s v
  rw [rdregState, rdregState, readReg_with_seed hi]
  cases readReg i s with
  | none => rfl
  | some w =>
    exact SeedBlind.ite (p := fun s => (needsSeeded i && !s.seeded) = true) (fun _ _ => Iff.rfl)
      (seedBlind_raiseError .unseeded) (seedBlind_respond .ok (le64 w)) s v

/-- RDREG of a register that is there to read answers it. -/
theorem rdregState_of_readReg {i : Nat} {s : State} {v : Word} (hv : readReg i s = some v) (hs : s.seeded = true) :
    rdregState i s = respond .ok (le64 v) s := by
  simp [rdregState, hv, hs]

/-- Every command but the seedings and RDREG 5 is blind to `seed`. -/
theorem seedBlind_after {i : Instr} (hi : isSeeding i = false) (h5 : i ≠ .rdreg 5) : SeedBlind (after i) := by
  cases i with
  | seed _ | seede | reseed _ => cases hi
  | next => exact seedBlind_whenSeeded seedBlind_nextSeeded
  | random => exact seedBlind_whenSeeded seedBlind_randomSeeded
  | randint a b => exact seedBlind_whenSeeded (seedBlind_randintSeeded _ _)
  | randbytes n => exact seedBlind_whenSeeded (seedBlind_randbytesSeeded _)
  | rdreg x => exact seedBlind_rdregState fun hx => h5 (congrArg Instr.rdreg (BitVec.eq_of_toNat_eq hx))

/-- RDREG writes no register, at whatever index. -/
theorem rdregState_seed (i : Nat) (s : State) : (rdregState i s).seed = s.seed := by
  rcases rdregState_cases i s with ⟨-, h⟩ | ⟨-, -, h⟩ | ⟨-, -, v, -, h⟩ <;> rw [h] <;> rfl

theorem after_seed {i : Instr} (hi : isSeeding i = false) (s : State) : (after i s).seed = s.seed := by
  by_cases h5 : i = .rdreg 5
  · rw [h5]; exact rdregState_seed 5 s
  · exact (seedBlind_after hi h5).seed_eq s

/-- A seeding overwrites `seed` without having read it (R133). -/
theorem after_with_seed_of_isSeeding {i : Instr} (hi : isSeeding i = true) (s : State) (v : Word) :
    after i { s with seed := v } = after i s := by
  cases i with
  | seed _ | reseed _ => rfl
  | seede => rw [after, seedBlind_dropEntropy s v]; rfl
  | next | random | randint _ _ | randbytes _ | rdreg _ => cases hi

/-- Settles O41: a seeding overwrites `seed` (`after_with_seed_of_isSeeding`), and every other command but RDREG 5
commutes with putting another value there (`seedBlind_after`). -/
theorem seedReadOnlyByRdreg : Obligations.SeedReadOnlyByRdreg := by
  refine ⟨fun i s t hi ht => ?_, fun i s t v h5 ht => ?_, fun s hs => ?_⟩
  · rw [(exec_next_iff i s t).mp ht, after_seed hi]
  · rw [exec_eq_after, (exec_next_iff i s t).mp ht]
    cases hi : isSeeding i with
    | true => rw [after_with_seed_of_isSeeding hi]; rfl
    | false => rw [seedBlind_after hi h5]; rfl
  · rw [exec_eq_after]
    exact congrArg Host.Outcome.next (rdregState_of_readReg (i := 5) rfl hs)

end Sys2Proof.Machine
end

section
/-!
PROOFS. The encoding chapter (30_encoding.md): the fields of a command word (R81), the opcode map row by row (R83, R86,
R92), and the worked encodings and pseudo-commands (R101, R102).
-/

namespace Sys2Proof

/-! ### The command word (R81) -/

theorem bytesOfWord_getElem? (cw : CmdWord) {i : Nat} (hi : i < 17) :
    (bytesOfWord cw)[i]? = some (cw.extractLsb' (8 * i) 8) := by
  simp [bytesOfWord, leBytes, hi]

@[simp] theorem wordOfBytes_bytesOfWord (cw : CmdWord) : wordOfBytes (bytesOfWord cw) = cw := by
  simpa using wordOfBytes_bytesOfWord_append cw []

/-- Settles O3: the word and its three fields determine each other (`packWord_fields`, `opField_packWord` and its
companions), as the word and its 17 bytes do (`bytesOfWord_eq`, `wordOfBytes_bytesOfWord`). -/
theorem commandWordFields : Obligations.CommandWordFields :=
  ⟨fun cw => ⟨rfl, rfl, rfl, packWord_fields cw⟩,
    fun cw => ⟨bytesOfWord_length cw, fun _ => bytesOfWord_getElem? cw, bytesOfWord_eq cw, wordOfBytes_bytesOfWord cw⟩,
    fun op a b => ⟨opField_packWord op a b, aField_packWord op a b, bField_packWord op a b⟩⟩

/-! ### The opcode map, row by row (R86, R92) -/

/-- An opcode selects one of the eight rows or is reserved in every build (R92). -/
theorem opcode_cases (op : Byte) :
    op = 0x01 ∨ op = 0x02 ∨ op = 0x03 ∨ op = 0x04 ∨ op = 0x05 ∨ op = 0x06 ∨ op = 0x07 ∨ op = 0x08 ∨
      (op = 0x00 ∨ 9 ≤ op.toNat) := by
  bv_omega

theorem decodeOp_reserved {op : Byte} (h : op = 0x00 ∨ 9 ≤ op.toNat) (a b : Word) : decodeOp op a b = none := by
  rcases h with rfl | h
  · rfl
  · rw [decodeOp]
    match op.toNat, h with
    | _ + 9, _ => rfl

section Rows

variable (c : Config) {cw : CmdWord}

theorem decode_seed (h : opField cw = 0x01) : decode c cw = .ok (.seed (aField cw)) := by
  rw [decode, h]; rfl

theorem decode_seede (h : opField cw = 0x02) : decode c cw = .ok .seede := by
  rw [decode, h]; rfl

theorem decode_reseed (h : opField cw = 0x03) : decode c cw = .ok (.reseed (aField cw)) := by
  rw [decode, h]; rfl

theorem decode_next (h : opField cw = 0x04) : decode c cw = .ok .next := by
  rw [decode, h]; rfl

theorem decode_random (h : opField cw = 0x05) :
    decode c cw = if c.hasDerived then .ok .random else .error (.absentGroup 0x05) := by
  rw [decode, h]; rfl

theorem decode_randint (h : opField cw = 0x06) :
    decode c cw =
      if c.hasDerived then .ok (.randint (aField cw) (bField cw)) else .error (.absentGroup 0x06) := by
  rw [decode, h]; rfl

theorem decode_randbytes (h : opField cw = 0x07) :
    decode c cw = if c.hasDerived then .ok (.randbytes (aField cw)) else .error (.absentGroup 0x07) := by
  rw [decode, h]; rfl

theorem decode_rdreg (h : opField cw = 0x08) :
    decode c cw = if c.hasRdreg then .ok (.rdreg (aField cw)) else .error (.absentGroup 0x08) := by
  rw [decode, h]; rfl

theorem decode_reserved (h : opField cw = 0x00 ∨ 9 ≤ (opField cw).toNat) :
    decode c cw = .error (.reservedOpcode (opField cw)) := by
  rw [decode, decodeOp_reserved h]

end Rows

/-- Without `HAS_DERIVED` the opcodes 0x05 to 0x07 decode to no command (R92). -/
theorem decode_of_hasDerived_false {c : Config} {cw : CmdWord} (h5 : 5 ≤ (opField cw).toNat)
    (h7 : (opField cw).toNat ≤ 7) (hc : c.hasDerived = false) : ∃ e, decode c cw = .error e := by
  have hop : opField cw = 0x05 ∨ opField cw = 0x06 ∨ opField cw = 0x07 := by bv_omega
  rcases hop with h | h | h
  · exact ⟨_, by rw [decode_random c h, hc]; rfl⟩
  · exact ⟨_, by rw [decode_randint c h, hc]; rfl⟩
  · exact ⟨_, by rw [decode_randbytes c h, hc]; rfl⟩

/-- Without `HAS_RDREG` the opcode 0x08 decodes to no command (R92). -/
theorem decode_of_hasRdreg_false {c : Config} {cw : CmdWord} (h : opField cw = 0x08) (hc : c.hasRdreg = false) :
    ∃ e, decode c cw = .error e :=
  ⟨_, by rw [decode_rdreg c h, hc]; rfl⟩

/-- `CW & 0xFF` is the opcode byte: the selection of R86 reads no other bit. -/
theorem and_0xFF_eq (cw : CmdWord) : cw &&& 0xFF = (opField cw).setWidth 136 := by
  apply BitVec.eq_of_toNat_eq
  have hmask : cw.toNat &&& 255 = cw.toNat % 256 := Nat.and_two_pow_sub_one_eq_mod _ 8
  rw [BitVec.toNat_and, opField, BitVec.toNat_setWidth, BitVec.extractLsb'_toNat]
  exact hmask.trans (by omega)

/-- Settles O4: `CW & 0xFF` is the opcode byte (`and_0xFF_eq`), and each row of the map is its `decode_` lemma. -/
theorem decodeFollowsOpcodeMap : Obligations.DecodeFollowsOpcodeMap := by
  intro c cw
  rw [and_0xFF_eq]
  rcases opcode_cases (opField cw) with h | h | h | h | h | h | h | h | h
  · rw [decode_seed c h, h]; rfl
  · rw [decode_seede c h, h]; rfl
  · rw [decode_reseed c h, h]; rfl
  · rw [decode_next c h, h]; rfl
  · rw [decode_random c h, h]; rfl
  · rw [decode_randint c h, h]; rfl
  · rw [decode_randbytes c h, h]; rfl
  · rw [decode_rdreg c h, h]; rfl
  · rw [decode_reserved c h]
    -- The opcode equals none of the eight rows'.
    iterate 8 rw [if_neg (by bv_omega)]

/-- Settles O5: a row's `decode_` lemma names only the operands the row uses, and `encode` writes zero in the others. -/
theorem unusedFieldsIgnored : Obligations.UnusedFieldsIgnored := by
  refine ⟨fun c op a b a' b' hop => ?_, fun c op a b b' hop => ?_, fun i hi => ?_, fun k => ⟨rfl, rfl, rfl, rfl⟩⟩
  · have h := opField_packWord op a b
    have h' := opField_packWord op a' b'
    rcases hop with rfl | rfl | rfl
    · rw [decode_seede c h, decode_seede c h']
    · rw [decode_next c h, decode_next c h']
    · rw [decode_random c h, decode_random c h']
  · have h := opField_packWord op a b
    have h' := opField_packWord op a b'
    rcases hop with rfl | rfl | rfl | rfl
    · rw [decode_seed c h, decode_seed c h', aField_packWord, aField_packWord]
    · rw [decode_reseed c h, decode_reseed c h', aField_packWord, aField_packWord]
    · rw [decode_randbytes c h, decode_randbytes c h', aField_packWord, aField_packWord]
    · rw [decode_rdreg c h, decode_rdreg c h', aField_packWord, aField_packWord]
  · rcases hi with rfl | rfl | rfl <;> rfl

/-! ### The text form (R101, R102) -/

/-- Settles O1: every clause is about fixed text, fixed bytes or a fixed word, so evaluating the model settles it. -/
theorem workedEncodings : Obligations.WorkedEncodings := by
  unfold Obligations.WorkedEncodings
  decide

/-- `command` accepts the eight mnemonics of R86 and the one pseudo-command of R101. -/
theorem mnemonic_mem_of_command {mnemonic : List Char} {ops : List (List Char)} (h : Text.command mnemonic ops ≠ none) :
    mnemonic ∈ ["SEED", "SEEDE", "RESEED", "NEXT", "RANDOM", "RANDINT", "RANDBYTES", "RDREG",
      "SEED_OR_RANDOM"].map String.toList := by
  contrapose! h
  simp only [List.map_cons, List.map_nil, List.mem_cons, List.not_mem_nil, or_false, not_or] at h
  simp only [Text.command, h, if_false]

/-- `regName` accepts the eight names of R44. -/
theorem name_mem_of_regName {name : List Char} (h : Text.regName name ≠ none) :
    name ∈ ["s0", "s1", "s2", "s3", "counter", "seed", "status", "out"].map String.toList := by
  contrapose! h
  simp_all [Text.regName]

/-- Settles O7: an operand makes `SEED_OR_RANDOM` SEED by unfolding, the named lines are evaluated, and the two lists are
complete by `mnemonic_mem_of_command` and `name_mem_of_regName`. -/
theorem pseudoCommandsExpand : Obligations.PseudoCommandsExpand :=
  ⟨fun _ => rfl, rfl, rfl, by decide, by decide, by decide, by decide, by decide, by decide, by decide, by decide,
   by decide, fun _ _ => mnemonic_mem_of_command, fun _ => name_mem_of_regName⟩

end Sys2Proof
end

section
/-!
PROOFS. What a word that is no command, and an error of a command, answer (30_encoding.md R92, R97; 60_exceptions.md
R240 to R244).
-/

namespace Sys2Proof.Machine

/-! ### When a command raises an error (60_exceptions.md R242 to R244) -/

/-- The condition under which the command `i`, in the state `s`, raises each of the three errors. -/
def Raises (i : Instr) (s : State) : CoreError → Prop
  | .invalidRange => ∃ a b, i = .randint a b ∧ s.seeded = true ∧ sint64 b < sint64 a
  | .unseeded => needsSeed i = true ∧ s.seeded = false
  | .illegal => ∃ x, i = .rdreg x ∧ 8 ≤ x.toNat

theorem after_of_rangeEmpty {a b : Word} {s : State} (hs : s.seeded = true) (hab : sint64 b < sint64 a) :
    after (.randint a b) s = raiseError .invalidRange s := by
  rw [after, whenSeeded_of_seeded hs]
  exact if_pos hab

theorem after_of_unseeded {i : Instr} {s : State} (hi : needsSeed i = true) (hs : s.seeded = false) :
    after i s = raiseError .unseeded s := by
  cases i with
  | seed _ | seede | reseed _ => cases hi
  | next | random | randint _ _ | randbytes _ => exact whenSeeded_of_unseeded hs
  | rdreg x =>
    have h5 : x.toNat ≤ 5 := of_decide_eq_true hi
    rcases rdregState_cases x.toNat s with ⟨h8, -⟩ | ⟨-, -, h⟩ | ⟨-, hseeded, -⟩
    · omega
    · exact h
    · exact absurd (hseeded h5) (by simp [hs])

theorem after_of_indexReserved {x : Word} (s : State) (hx : 8 ≤ x.toNat) :
    after (.rdreg x) s = raiseError .illegal s := by
  rw [after, rdregState, indexOperand, readReg_reserved s hx]

/-- A command that meets an error's condition raises that error. -/
theorem after_of_raises {i : Instr} {s : State} {e : CoreError} (h : Raises i s e) : after i s = raiseError e s := by
  cases e with
  | invalidRange =>
    obtain ⟨a, b, rfl, hs, hab⟩ := h
    exact after_of_rangeEmpty hs hab
  | unseeded => exact after_of_unseeded h.1 h.2
  | illegal =>
    obtain ⟨x, rfl, hx⟩ := h
    exact after_of_indexReserved s hx

/-- A response made where the earlier ones are still those of `s` is the one answer. -/
theorem status_of_respond {st : Status} {p : List Byte} {s u : State} {r : Response} (hu : u.rspOut = s.rspOut)
    (hr : (respond st p u).rspOut = s.rspOut ++ [r]) : r.status = st := by
  rw [respond_rspOut, hu, List.append_cancel_left_eq, List.singleton_inj] at hr
  exact hr ▸ rfl

/-- A command that answers, answers OK or an error whose condition it meets. -/
theorem status_of_answer {i : Instr} {s : State} {r : Response} (hr : (after i s).rspOut = s.rspOut ++ [r]) :
    r.status = .ok ∨ ∃ e, Raises i s e ∧ r.status = e.status := by
  rcases after_cases i s with ⟨-, k, u, h, hu⟩ | ⟨-, e, h, he⟩ | ⟨-, -, h⟩ | ⟨-, -, h⟩ | ⟨-, n, -, h⟩ |
    ⟨-, a, b, -, -, h⟩ | ⟨x, v, -, -, -, -, h⟩ <;> rw [h] at hr
  · rcases hu with rfl | ⟨-, rfl⟩
    · exact .inl (status_of_respond rfl hr)
    · exact .inl (status_of_respond (dropEntropy_rspOut s) hr)
  · refine .inr ⟨e, ?_, status_of_respond rfl hr⟩
    rcases he with ⟨rfl, hx⟩ | ⟨rfl, hs, hi⟩ | ⟨rfl, hs, a, b, hi, hab⟩
    · exact hx
    · exact ⟨hi, hs⟩
    · exact ⟨a, b, hi, hs, hab⟩
  · exact .inl (status_of_respond (draw_rspOut s) hr)
  · exact .inl (status_of_respond (draw_rspOut s) hr)
  · exact .inl (status_of_respond (drawN_rspOut _ s) hr)
  · rcases randintTurn_cases (randintWork (sint64 a) (sint64 b)) s with ⟨-, hturn⟩ | ⟨-, hturn⟩ <;> rw [hturn] at hr
    · exact .inl (status_of_respond (draw_rspOut s) hr)
    · simp at hr
  · exact .inl (status_of_respond rfl hr)

theorem coreError_status_injective : Function.Injective CoreError.status := by
  intro e e' h
  cases e <;> cases e' <;> trivial

/-- The status of an answer is an error's exactly when the command meets that error's condition. -/
theorem status_eq_iff_raises {i : Instr} {s : State} {r : Response} (hr : (after i s).rspOut = s.rspOut ++ [r])
    (e : CoreError) : r.status = e.status ↔ Raises i s e := by
  constructor
  · intro he
    rcases status_of_answer hr with hok | ⟨e', hraises, he'⟩
    · cases e <;> cases hok.symm.trans he
    · rwa [coreError_status_injective (he.symm.trans he')]
  · intro h
    rw [after_of_raises h] at hr
    exact status_of_respond rfl hr

/-! ### A waiting word that is no command, and one that is -/

section Waiting

variable {s : State} {cw : CmdWord} {rest : List HostEvent} (hidle : s.inflight = none)
  (hword : s.cmdIn = .command cw :: rest)
include hidle hword

theorem step_of_decode_error {e : DecodeError} (hd : decode s.cfg cw = .error e) :
    step s = .next (raiseError .illegal { s with cmdIn := rest }) := by
  simp only [step, fetch, hidle, hword, hd]

theorem step_of_decode_ok {i : Instr} (hd : decode s.cfg cw = .ok i) :
    step s = .next (after i { s with cmdIn := rest }) := by
  simp only [step, fetch, hidle, hword, hd, exec_eq_after]

end Waiting

/-- Settles O6: a reserved opcode decodes to no command, and a reserved RDREG index is refused by the command's meaning;
both raise Illegal on the state with the word taken. -/
theorem reservedEncodingsAnswerIllegal : Obligations.ReservedEncodingsAnswerIllegal := by
  refine ⟨rfl, fun s cw rest hidle hword hres => ?_⟩
  have illegal_of_error (he : ∃ e, decode s.cfg cw = .error e) :
      step s = .next (raiseError .illegal { s with cmdIn := rest }) :=
    he.elim fun _ => step_of_decode_error hidle hword
  change step s = .next (raiseError .illegal { s with cmdIn := rest })
  rcases hres with h | h | ⟨h5, h7, hc⟩ | ⟨h, hc⟩ | ⟨h, hx⟩
  · exact illegal_of_error ⟨_, decode_reserved s.cfg (.inl h)⟩
  · exact illegal_of_error ⟨_, decode_reserved s.cfg (.inr h)⟩
  · exact illegal_of_error (decode_of_hasDerived_false h5 h7 hc)
  · exact illegal_of_error (decode_of_hasRdreg_false h hc)
  · cases hc : s.cfg.hasRdreg with
    | false => exact illegal_of_error (decode_of_hasRdreg_false h hc)
    | true =>
      have hd : decode s.cfg cw = .ok (.rdreg (aField cw)) := by rw [decode_rdreg s.cfg h, hc]; rfl
      rw [step_of_decode_ok hidle hword hd, after_of_indexReserved _ hx]

/-- Settles O42: an answer's error status is its command's error condition (`status_eq_iff_raises`), one equivalence for
each error; a word that does not decode raises Illegal (`step_of_decode_error`). -/
theorem statusCodes : Obligations.StatusCodes := by
  refine ⟨rfl, rfl, rfl, rfl, fun st => by cases st <;> decide, fun i s t r ht hr => ?_,
    fun s cw rest e hidle hword hd => ⟨_, step_of_decode_error hidle hword hd, rfl⟩⟩
  rw [(exec_next_iff i s t).mp ht] at hr
  have status_iff := status_eq_iff_raises hr
  exact ⟨status_iff .invalidRange, status_iff .unseeded, status_iff .illegal⟩

end Sys2Proof.Machine
end

section
/-!
PROOFS. The mixer chapter (40_mixer.md): MIX64 by stages (R110), how each stage is undone (R116), its corner cases
(R115) and its worked values (R118).
-/

namespace Sys2Proof

/-! ### What R10 gives of the constants -/

/-- The check of R10 as its facts; R115 (d) is the part about the shifts. -/
theorem MixParams.wf_iff (p : MixParams) :
    p.wf = true ↔ (p.gamma.getLsbD 0 = true ∧ p.m1.getLsbD 0 = true ∧ p.m2.getLsbD 0 = true) ∧
      (1 ≤ p.r1 ∧ p.r1 ≤ 63) ∧ (1 ≤ p.r2 ∧ p.r2 ≤ 63) ∧ (1 ≤ p.r3 ∧ p.r3 ≤ 63) := by
  simp only [MixParams.wf, Bool.and_eq_true, decide_eq_true_eq, and_assoc]

/-! ### Each stage is undone (R116) -/

theorem mixAdd_bijective (p : MixParams) : Function.Bijective (mixAdd p) := (Equiv.addRight p.gamma).bijective

/-- An odd word is one more than an even word, and an even word is nilpotent modulo 2^64. -/
theorem isUnit_of_getLsbD_zero {m : Word} (h : m.getLsbD 0 = true) : IsUnit m := by
  have hodd : Odd m.toNat := by
    simpa [Nat.odd_iff, BitVec.getLsbD, Nat.testBit_zero] using h
  have hcast : Odd m := by
    have hm := hodd.natCast (R := Word)
    rwa [BitVec.natCast_eq_ofNat, BitVec.ofNat_toNat, BitVec.setWidth_eq] at hm
  obtain ⟨k, rfl⟩ := hcast
  have htwo : IsNilpotent (2 : Word) := ⟨64, BitVec.eq_of_toNat_eq (by rw [BitVec.toNat_pow]; rfl)⟩
  exact ((Commute.all 2 k).isNilpotent_mul_right htwo).isUnit_add_one

theorem mixMul_bijective {m : Word} (h : m.getLsbD 0 = true) : Function.Bijective (mixMul m) :=
  (isUnit_of_getLsbD_zero h).unit.mulRight_bijective

/-- R116's way back through an xor-shift stage: the XOR of the shifts of `y` by the first `n` multiples of `r`. -/
def xorShiftUndo (r n : Nat) (y : Word) : Word := (List.range n).foldl (fun acc j => acc ^^^ (y >>> (j * r))) 0

theorem xorShiftUndo_succ (r n : Nat) (y : Word) :
    xorShiftUndo r (n + 1) y = xorShiftUndo r n y ^^^ (y >>> (n * r)) := by
  rw [xorShiftUndo, List.range_succ, List.foldl_append]; rfl

theorem xorShift_ushiftRight (r k : Nat) (z : Word) : xorShift r z >>> k = z >>> k ^^^ z >>> (r + k) := by
  rw [xorShift, BitVec.ushiftRight_xor_distrib, BitVec.shiftRight_add]

/-- The XOR telescopes: one more multiple of `r` moves the error by `r` places to the right. -/
theorem xorShiftUndo_xorShift_eq_xor (r n : Nat) (z : Word) :
    xorShiftUndo r n (xorShift r z) = z ^^^ z >>> (n * r) := by
  induction n with
  | zero => simp [xorShiftUndo]
  | succ n ih =>
    rw [xorShiftUndo_succ, ih, xorShift_ushiftRight, Nat.succ_mul, Nat.add_comm r, BitVec.xor_assoc,
      ← BitVec.xor_assoc (z >>> (n * r)), BitVec.xor_self, BitVec.zero_xor]

/-- The 64 multiples take the error out of the word. -/
theorem xorShiftUndo_xorShift {r : Nat} (hr : 1 ≤ r) (z : Word) : xorShiftUndo r 64 (xorShift r z) = z := by
  have hout : z >>> (64 * r) = 0 := BitVec.ushiftRight_eq_zero (by omega)
  rw [xorShiftUndo_xorShift_eq_xor, hout]; exact BitVec.xor_zero

theorem xorShift_bijective {r : Nat} (hr : 1 ≤ r) : Function.Bijective (xorShift r) :=
  (Function.LeftInverse.injective (xorShiftUndo_xorShift hr)).bijective_of_finite

theorem mix64_bijective {p : MixParams} (hp : p.wf = true) : Function.Bijective (mix64 p) := by
  obtain ⟨⟨-, hm1, hm2⟩, ⟨hr1, -⟩, ⟨hr2, -⟩, hr3, -⟩ := p.wf_iff.mp hp
  exact (xorShift_bijective hr3).comp <| (mixMul_bijective hm2).comp <| (xorShift_bijective hr2).comp <|
    (mixMul_bijective hm1).comp <| (xorShift_bijective hr1).comp <| mixAdd_bijective p

/-- Settles O12: `MIX64` is a composition of bijections; an odd multiplier is a unit (`isUnit_of_getLsbD_zero`), and the
xor-shift is undone by a telescoping XOR (`xorShiftUndo_xorShift`). -/
theorem mixerIsBijective : Obligations.MixerIsBijective := by
  refine ⟨fun p => mix64_bijective, fun p x => add_sub_cancel_right x p.gamma, fun m hm => ?_,
    fun r z hr => xorShiftUndo_xorShift hr z, by decide, by decide⟩
  obtain ⟨m', hm'⟩ := (isUnit_of_getLsbD_zero hm).exists_right_inv
  exact ⟨m', hm', fun a => by rw [mixMul, mixMul, mul_assoc, hm', mul_one]⟩

/-! ### Corner cases (R115) -/

@[simp] theorem xorShift_zero (r : Nat) : xorShift r 0 = 0 := by simp [xorShift]

@[simp] theorem mixMul_zero (m : Word) : mixMul m 0 = 0 := zero_mul m

@[simp] theorem mixAdd_neg_gamma (p : MixParams) : mixAdd p (0 - p.gamma) = 0 := sub_add_cancel 0 p.gamma

@[simp] theorem mix64_neg_gamma (p : MixParams) : mix64 p (0 - p.gamma) = 0 := by
  simp only [mix64, mixAdd_neg_gamma, xorShift_zero, mixMul_zero]

theorem mixAdd_allOnes (p : MixParams) : mixAdd p 0xFFFFFFFFFFFFFFFF = p.gamma - 1 := by
  rw [mixAdd, show (0xFFFFFFFFFFFFFFFF : Word) = -1 by decide, neg_add_eq_sub]

/-- Settles O13: every stage but the first maps 0 to 0, and by `mix64_bijective` no other argument has the result 0. -/
theorem mixerCornerCases : Obligations.MixerCornerCases :=
  ⟨mixAdd_allOnes, fun p => ⟨mixAdd_neg_gamma p, mix64_neg_gamma p⟩,
    fun p _ hp hx => (mix64_bijective hp).injective (hx.trans (mix64_neg_gamma p).symm),
    by decide, fun m a => BitVec.toNat_mul a m, fun r m => ⟨xorShift_zero r, mixMul_zero m⟩,
    fun p hp => (p.wf_iff.mp hp).2, fun s => ⟨_, Machine.exec_eq_after _ s, rfl, rfl⟩⟩

/-! ### The formula and its worked values (R110, R118) -/

/-- Settles O10: the six stages, and the reference constants, are the model's definitions. -/
theorem mixerStages : Obligations.MixerStages := ⟨fun _ _ => rfl, fun _ => rfl⟩

/-- Settles O11: the model evaluated on the five arguments of R118's table. -/
theorem mixerWorkedValues : Obligations.MixerWorkedValues := by
  unfold Obligations.MixerWorkedValues
  decide

end Sys2Proof
end

section
/-!
PROOFS. The seeding chapter (41_seeding.md): SEED (R132), RESEED (R136), and what SEEDPROC reads (R133).
-/

namespace Sys2Proof.Machine

/-! ### What a seeding does (R131) -/

theorem decode_packWord_seed (c : Config) (k b : Word) : decode c (packWord 0x01 k b) = .ok (.seed k) := by
  rw [decode_seed c (opField_packWord 0x01 k b), aField_packWord]

theorem decode_packWord_reseed (c : Config) (k b : Word) : decode c (packWord 0x03 k b) = .ok (.reseed k) := by
  rw [decode_reseed c (opField_packWord 0x03 k b), aField_packWord]

/-- SEED and RESEED are one derivation: the two commands have the same meaning from every state (R132, R136). -/
theorem exec_reseed_eq_exec_seed (s : State) (k : Word) : exec (.reseed k) s = exec (.seed k) s := rfl

/-- `SEEDPROC` as R131 writes it, the mixed seed `sm` plus 1 to 4 under the four words, with the empty OK answer. -/
theorem exec_seed_eq (s : State) (k : Word) :
    exec (.seed k) s = .next { s with
      seeded := true
      seed := k
      s0 := mix64 s.cfg.mix (mix64 s.cfg.mix k + 1)
      s1 := mix64 s.cfg.mix (mix64 s.cfg.mix k + 2)
      s2 := mix64 s.cfg.mix (mix64 s.cfg.mix k + 3)
      s3 := mix64 s.cfg.mix (mix64 s.cfg.mix k + 4)
      counter := 1
      out := 0
      rspOut := s.rspOut ++ [⟨.ok, []⟩] } := rfl

/-! ### The rules' examples, under the reference constants -/

/-- The four words of R132's example. -/
theorem seedWord_reference_example :
    seedWord .reference 0xDEADBEEFCAFEBABE 0 = 0x3DD310F9CDF3BD6F ∧
    seedWord .reference 0xDEADBEEFCAFEBABE 1 = 0xAB3113F20DB979E5 ∧
    seedWord .reference 0xDEADBEEFCAFEBABE 2 = 0x1CA0267D486C298F ∧
    seedWord .reference 0xDEADBEEFCAFEBABE 3 = 0x96E7647450D943DC := by decide

/-- The four words of R136's example. -/
theorem seedWord_reference_zero :
    seedWord .reference 0 0 = 0x2A98F501AF37E97F ∧ seedWord .reference 0 1 = 0x82876E1C4F0B438C ∧
    seedWord .reference 0 2 = 0xF9BF111E3B410C7A ∧ seedWord .reference 0 3 = 0x5EC65277C5A7D2F6 := by decide

/-- Settles O14: `exec_seed_eq` is the rule's state; the example's words are `seedWord_reference_example`. -/
theorem seedWritesWholeState : Obligations.SeedWritesWholeState := by
  refine ⟨decode_packWord_seed, exec_seed_eq, fun s k => (exec_reseed_eq_exec_seed s k).symm, by decide,
    fun s hmix => ?_⟩
  obtain ⟨h0, h1, h2, h3⟩ := hmix ▸ seedWord_reference_example
  exact ⟨_, exec_eq_after _ s, h0, h1, h2, h3, rfl, rfl, rfl, rfl, by simp [after, Response.bytes, Status.code]⟩

/-- Settles O16: what SEED does (`exec_seed_eq`), for RESEED by `exec_reseed_eq_exec_seed`. -/
theorem reseedReplacesState : Obligations.ReseedReplacesState := by
  refine ⟨decode_packWord_reseed, fun s k => (exec_reseed_eq_exec_seed s k).trans (exec_seed_eq s k),
    exec_reseed_eq_exec_seed, by decide, fun s hmix => ?_⟩
  obtain ⟨h0, h1, h2, h3⟩ := hmix ▸ seedWord_reference_zero
  exact ⟨_, exec_eq_after _ s, h0, h1, h2, h3, rfl, rfl, rfl⟩

/-! ### What a seeding reads (R133) -/

/-- Settles O17: of the state a seeding reads the build alone, and only in the four words. -/
theorem seedingForgetsThePast : Obligations.SeedingForgetsThePast := by
  intro s t k hcfg
  have word_eq (i : Nat) : seedWord s.cfg.mix k i = seedWord t.cfg.mix k i := by rw [hcfg]
  exact ⟨_, _, exec_eq_after _ s, exec_eq_after _ t, rfl, rfl, word_eq 0, word_eq 1, word_eq 2, word_eq 3, rfl, rfl⟩

end Sys2Proof.Machine
end

section
/-!
PROOFS. The draw chapter (42_draw.md): the transition in both modes (R152, R153, R166), the whitening buffer (R156), the
draw (R150, R161), NEXT (R160) and its payload (R165).
-/

namespace Sys2Proof.Machine

/-! ### The transition (R152, R153, R166) -/

theorem xs_parallel (s0 s1 s2 s3 : Word) :
    xs .parallel s0 s1 s2 s3 =
      ⟨s0 ^^^ s3, s1 ^^^ s2, s2 ^^^ s0 ^^^ (s1 <<< 17), rotl64 (s3 ^^^ s1) 45⟩ := rfl

/-- The words that a later statement sees as already written come in as XOR terms. -/
theorem xs_sequential (s0 s1 s2 s3 : Word) :
    xs .sequential s0 s1 s2 s3 =
      ⟨s0 ^^^ s3 ^^^ s1, s1 ^^^ s2 ^^^ s0, s2 ^^^ s0 ^^^ (s1 <<< 17), rotl64 (s3 ^^^ s1) 45⟩ := by
  rw [BitVec.xor_assoc s0, BitVec.xor_assoc s1]; rfl

/-- Settles O20: the build at reset is PARALLEL, and the rule's formula is `xs_parallel`. -/
theorem transitionParallel : Obligations.TransitionParallel := ⟨rfl, xs_parallel⟩

/-- Settles O21: the difference of the modes is read off the two formulas. -/
theorem transitionSequential : Obligations.TransitionSequential := by
  intro s0 s1 s2 s3
  rw [xs_sequential, xs_parallel]
  exact ⟨rfl, rfl, rfl, rfl, rfl⟩

/-- Settles O22: the model evaluated on the six rows of R166's table. -/
theorem workedTransitions : Obligations.WorkedTransitions := by
  unfold Obligations.WorkedTransitions
  decide

/-! ### The whitening buffer (R156) -/

/-- A write leaves the bytes before it and its own eight in front. -/
theorem take_memWrite {wb : List Byte} {addr : Nat} (h : addr ≤ wb.length) (v : Word) :
    (memWrite wb addr v).take (addr + 8) = wb.take addr ++ le64 v :=
  List.take_left' (by rw [List.length_append, List.length_take_of_le h, le64_length])

theorem le_length_memWrite {wb : List Byte} {addr : Nat} (h : addr ≤ wb.length) (v : Word) :
    addr + 8 ≤ (memWrite wb addr v).length := by
  rw [memWrite, List.length_append, List.length_append, List.length_take_of_le h, le64_length]
  exact Nat.le_add_right _ _

/-- Each write settles the next eight bytes from the start on, so nothing of the buffer's old contents is read. -/
theorem buildWhiteningBuffer_eq (wb : List Byte) (n : NewWords) (counter : Word) :
    buildWhiteningBuffer wb n counter = whiteningBuffer n counter := by
  have h0 : 0 ≤ wb.length := Nat.zero_le _
  have h8 := le_length_memWrite h0 (rawOf n)
  have h16 := le_length_memWrite h8 n.n0
  have h24 := le_length_memWrite h16 n.n1
  have h32 := le_length_memWrite h24 n.n2
  rw [buildWhiteningBuffer, memRead, List.drop_zero, take_memWrite h32, take_memWrite h24, take_memWrite h16,
    take_memWrite h8, take_memWrite h0]
  rfl

@[simp] theorem whiteningBuffer_length (n : NewWords) (counter : Word) : (whiteningBuffer n counter).length = 40 := by
  simp only [whiteningBuffer, List.length_append, le64_length]

/-- Settles O23: the bytes are `buildWhiteningBuffer_eq`; a draw hashes them as the model's `whiten` does, and SEED sets
the counter to 1. -/
theorem whiteningBufferLayout : Obligations.WhiteningBufferLayout :=
  ⟨fun n counter wb _ =>
      ⟨buildWhiteningBuffer_eq wb n counter, buildWhiteningBuffer_eq wb n counter, whiteningBuffer_length n counter⟩,
    fun _ => rfl, fun s t k h => by rw [(exec_next_iff _ s t).mp h]; rfl⟩

/-! ### The draw (R150, R161) -/

/-- Settles O24: the buffer as R150 writes it is `buildWhiteningBuffer_eq`, and the digest's first eight bytes are the
bytes of `o` (`le64_fromLE64`). -/
theorem drawProcedure : Obligations.DrawProcedure := by
  intro s wb _ n raw d o
  have hd : d = (h256 s.cfg.digest (whiteningBuffer (drawWords s) s.counter)).toList :=
    congrArg (fun m => (h256 s.cfg.digest m).toList) (buildWhiteningBuffer_eq wb n s.counter)
  have ho : o = drawOut s := congrArg (fun bytes => fromLE64 (bytes.take 8)) hd
  refine ⟨Vector.length_toList, le64_fromLE64 _ (by rw [hd, List.length_take, Vector.length_toList]; rfl), ?_⟩
  rw [ho]; rfl

theorem drawWords_parallel {s : State} (h : s.cfg.xsMode = .parallel) :
    drawWords s = ⟨s.s0 ^^^ s.s3, s.s1 ^^^ s.s2, s.s2 ^^^ s.s0 ^^^ (s.s1 <<< 17), rotl64 (s.s3 ^^^ s.s1) 45⟩ := by
  rw [drawWords, h, xs_parallel]

/-- Settles O25: the draw with its new words put in by `drawWords_parallel`. -/
theorem drawUnderParallel : Obligations.DrawUnderParallel := by
  intro s hmode
  rw [draw, drawOut, drawWords_parallel hmode]; rfl

/-! ### NEXT (R160) -/

theorem exec_next_of_seeded {s : State} (h : s.seeded = true) :
    exec .next s = .next { draw s with rspOut := s.rspOut ++ [⟨.ok, le64 (draw s).out⟩] } := by
  rw [exec_eq_after, after, whenSeeded_of_seeded h]; rfl

theorem exec_next_of_unseeded {s : State} (h : s.seeded = false) :
    exec .next s = .next { s with rspOut := s.rspOut ++ [⟨.errUnseeded, []⟩] } := by
  rw [exec_eq_after, after_of_unseeded rfl h]; rfl

/-- The new words of R160's example. -/
theorem drawWords_example : drawWords (exampleState 0xDEADBEEFCAFEBABE) =
    ⟨0xAB34748D9D2AFEB3, 0xB791358F45D5506A, 0x06972DF6765594E0, 0x074727BACEF0CBAC⟩ := by decide

/-- The buffer of R160's example. -/
theorem whiteningBuffer_example :
    whiteningBuffer (drawWords (exampleState 0xDEADBEEFCAFEBABE)) 1 =
      [0x5f, 0xca, 0x1b, 0x6c, 0x48, 0x9c, 0x7b, 0xb2, 0xb3, 0xfe, 0x2a, 0x9d, 0x8d, 0x74, 0x34, 0xab,
       0x6a, 0x50, 0xd5, 0x45, 0x8f, 0x35, 0x91, 0xb7, 0xe0, 0x94, 0x55, 0x76, 0xf6, 0x2d, 0x97, 0x06,
       0x01, 0x00, 0x00, 0x00, 0x00, 0x00, 0x00, 0x00] := by
  rw [drawWords_example]; decide

/-- The digest of R160's example. -/
theorem sha256_example :
    (sha256 (whiteningBuffer (drawWords (exampleState 0xDEADBEEFCAFEBABE)) 1)).toList =
      [0x5d, 0x4a, 0x00, 0x8d, 0x64, 0xdd, 0x25, 0x9c, 0xf9, 0xeb, 0x2e, 0xda, 0xb2, 0x92, 0x93, 0x5c,
       0x72, 0x20, 0x29, 0x8f, 0x08, 0xea, 0xd0, 0x56, 0xf9, 0xad, 0xb5, 0x85, 0xd6, 0x12, 0xcc, 0x0e] := by
  rw [whiteningBuffer_example]; decide +kernel

/-- The draw of R160's example: the digest's first eight bytes, byte 0 lowest. -/
theorem drawOut_example : drawOut (exampleState 0xDEADBEEFCAFEBABE) = 0x9C25DD648D004A5D := by
  have h : drawOut (exampleState 0xDEADBEEFCAFEBABE) = fromLE64
    ((sha256 (whiteningBuffer (drawWords (exampleState 0xDEADBEEFCAFEBABE)) 1)).toList.take 8) := rfl
  rw [h, sha256_example]; decide

/-- Settles O26: the two meanings of NEXT, and the example value by value: words, buffer, digest, draw. -/
theorem nextDrawsOnce : Obligations.NextDrawsOnce := by
  refine ⟨fun c a b => decode_next c (opField_packWord 0x04 a b), fun s => exec_next_of_seeded,
    fun s => exec_next_of_unseeded, drawWords_example, ?_, whiteningBuffer_example, sha256_example,
    _, exec_next_of_seeded rfl, ?_⟩
  · rw [drawWords_example]; decide
  · simp only [draw_s0, draw_s1, draw_s2, draw_s3, draw_counter, draw_out, drawWords_example, drawOut_example]
    decide

/-! ### The payload (R165) -/

/-- The bytes of `j + k` draws are those of the first `j`, then those of the next `k`. -/
theorem drawBytes_add (j k : Nat) (s : State) : drawBytes (j + k) s = drawBytes j s ++ drawBytes k (drawN j s) := by
  induction j generalizing s with
  | zero => rw [Nat.zero_add]; rfl
  | succ j ih => rw [Nat.succ_add, drawBytes, drawBytes, ih, List.append_assoc, drawN_succ]

/-- Group `j` of the bytes holds draw `j`. -/
theorem drawBytes_group {j k : Nat} (h : j < k) (s : State) :
    ((drawBytes k s).drop (8 * j)).take 8 = le64 (drawOut (drawN j s)) := by
  obtain ⟨m, rfl⟩ := Nat.exists_eq_add_of_lt h
  rw [Nat.add_assoc, drawBytes_add, List.drop_left' (drawBytes_length j s), drawBytes, List.take_left' (le64_length _)]

/-- Settles O27: the bytes of a draw are its digest bytes (`le64_drawOut`), in NEXT and in each group of `k` draws. -/
theorem payloadIsDigestPrefix : Obligations.PayloadIsDigestPrefix := by
  refine ⟨fun s hs => ?_, fun k j s h => ?_, fun s => ?_⟩
  · rw [exec_next_of_seeded hs, draw_out, le64_drawOut]
  · rw [drawBytes_group h, le64_drawOut]
  · rw [← le64_drawOut, le64_length]

end Sys2Proof.Machine
end

section
/-!
PROOFS. The derived chapter (43_derived.md), RANDOM: the binary64 pattern (R181), the range of the result (R182) and the
command (R180).
-/

namespace Sys2Proof.Machine

/-! ### The fields of a pattern (R181) -/

@[simp] theorem f64Bits_zero : f64Bits 0 = 0 := if_pos rfl

section Fields

variable {v : Nat} (hv : v ≠ 0)
include hv

theorem f64Bits_of_ne_zero :
    f64Bits v = (0#1 ++ BitVec.ofNat 11 (f64Expo v)) ++ BitVec.ofNat 52 (f64Frac v) := if_neg hv

theorem f64Bits_sign : (f64Bits v).getLsbD 63 = false := by
  rw [f64Bits_of_ne_zero hv, BitVec.getLsbD_append, if_neg (by decide), BitVec.getLsbD_append, if_neg (by decide)]
  rfl

theorem f64Bits_frac : ((f64Bits v).extractLsb' 0 52).toNat = v * 2 ^ (52 - v.log2) % 2 ^ 52 := by
  rw [f64Bits_of_ne_zero hv, BitVec.extractLsb'_append_eq_right, BitVec.toNat_ofNat, f64Frac, Nat.mod_mod,
    Nat.shiftLeft_eq]

variable (hlt : v < 2 ^ 53)
include hlt

theorem log2_le_52 : v.log2 ≤ 52 := Nat.lt_succ_iff.mp ((Nat.log2_lt hv).mpr hlt)

theorem f64Bits_expo : ((f64Bits v).extractLsb' 52 11).toNat = 970 + v.log2 := by
  have hk := log2_le_52 hv hlt
  rw [f64Bits_of_ne_zero hv, BitVec.extractLsb'_append_eq_of_le (le_refl 52), BitVec.extractLsb'_append_eq_right,
    BitVec.toNat_ofNat, f64Expo]
  omega

/-- The leading 1 of `v`, moved to bit 52, is all that the fraction field leaves out. -/
theorem frac_add_leadingOne : v * 2 ^ (52 - v.log2) % 2 ^ 52 + 2 ^ 52 = v * 2 ^ (52 - v.log2) := by
  have hk := log2_le_52 hv hlt
  have hlow : 2 ^ v.log2 * 2 ^ (52 - v.log2) ≤ v * 2 ^ (52 - v.log2) := Nat.mul_le_mul_right _ (Nat.log2_self_le hv)
  have hhigh : v * 2 ^ (52 - v.log2) < 2 ^ (v.log2 + 1) * 2 ^ (52 - v.log2) :=
    Nat.mul_lt_mul_of_pos_right Nat.lt_log2_self (by positivity)
  rw [← pow_add, Nat.add_sub_cancel' hk] at hlow
  rw [← pow_add, show v.log2 + 1 + (52 - v.log2) = 53 by omega] at hhigh
  omega

end Fields

/-- A pattern with the sign 0 is its exponent field above its fraction field. -/
theorem toNat_eq_expo_frac {w : Word} (h : w.getLsbD 63 = false) :
    w.toNat = (w.extractLsb' 52 11).toNat * 2 ^ 52 + (w.extractLsb' 0 52).toNat := by
  have hsign : w.toNat < 2 ^ 63 := by
    have := BitVec.msb_eq_false_iff_two_mul_lt.mp ((BitVec.msb_eq_getLsbD_last w).trans h)
    omega
  simp only [BitVec.extractLsb'_toNat, Nat.shiftRight_eq_div_pow]
  omega

@[simp] theorem f64Value_zero : f64Value 0 = 0 := if_pos rfl

theorem f64Bits_ne_zero {v : Nat} (hv : v ≠ 0) (hlt : v < 2 ^ 53) : f64Bits v ≠ 0 := by
  intro h
  have hexpo := f64Bits_expo hv hlt
  have hzero : ((0 : Word).extractLsb' 52 11).toNat = 0 := by decide
  rw [h, hzero] at hexpo
  omega

/-- The significand is `v` scaled by `2 ^ (52 - k)` and the exponent scales it back. -/
theorem f64Value_f64Bits {v : Nat} (hlt : v < 2 ^ 53) : f64Value (f64Bits v) = (v : ℚ) / 2 ^ 53 := by
  rcases eq_or_ne v 0 with rfl | hv
  · rw [f64Bits_zero, f64Value_zero, Nat.cast_zero, zero_div]
  · have hk := log2_le_52 hv hlt
    have hsig : ((v * 2 ^ (52 - v.log2) % 2 ^ 52 : Nat) : ℚ) + 2 ^ 52 = v * 2 ^ (52 - v.log2) := by
      exact_mod_cast frac_add_leadingOne hv hlt
    have hscale : (2 : ℚ) ^ (((970 + v.log2 : Nat) : ℤ) - 1023) = 2 ^ 52 / (2 ^ (52 - v.log2) * 2 ^ 53) := by
      rw [eq_div_iff (by positivity), ← pow_add, ← zpow_natCast, ← zpow_natCast, ← zpow_add₀ two_ne_zero]
      congr 1
      omega
    rw [f64Value, if_neg (f64Bits_ne_zero hv hlt), f64Bits_sign hv, f64Bits_frac hv, f64Bits_expo hv hlt, hscale,
      eq_sub_of_add_eq hsig]
    field_simp
    simp

/-- Settles O30: the three fields by name, with `k` the integer logarithm, and the value `f64Value_f64Bits`. -/
theorem f64BitsExact : Obligations.F64BitsExact := by
  refine fun v hlt => ⟨fun hv => if_pos hv, fun hv => ?_, f64Value_f64Bits hlt⟩
  exact ⟨v.log2, log2_le_52 hv hlt, Nat.log2_self_le hv, Nat.lt_log2_self, f64Bits_sign hv, f64Bits_expo hv hlt,
    f64Bits_frac hv⟩

/-! ### The range of RANDOM (R182) -/

theorem topBits_lt (o : Word) : (o >>> 11).toNat < 2 ^ 53 := by
  rw [BitVec.toNat_ushiftRight, Nat.shiftRight_eq_div_pow]
  omega

theorem f64Value_randomBits (o : Word) : f64Value (randomBits o) = ((o >>> 11).toNat : ℚ) / 2 ^ 53 :=
  f64Value_f64Bits (topBits_lt o)

/-- RANDOM's pattern is +0.0, or has the sign 0 and an exponent field from 970 to 1022. -/
theorem randomBits_cases (o : Word) :
    randomBits o = 0 ∨ ((randomBits o).getLsbD 63 = false ∧ 970 ≤ ((randomBits o).extractLsb' 52 11).toNat ∧
      ((randomBits o).extractLsb' 52 11).toNat ≤ 1022) := by
  rcases eq_or_ne (o >>> 11).toNat 0 with hv | hv
  · exact .inl (if_pos hv)
  · have hk := log2_le_52 hv (topBits_lt o)
    have hexpo : ((randomBits o).extractLsb' 52 11).toNat = _ := f64Bits_expo hv (topBits_lt o)
    exact .inr ⟨f64Bits_sign hv, by omega, by omega⟩

theorem randomNumerics_fixedPoints :
    f64Bits 1 = 0x3CA0000000000000 ∧ f64Bits (2 ^ 53 - 1) = 0x3FEFFFFFFFFFFFFF ∧ f64Bits 0 = 0 ∧
      f64Bits (2 ^ 52) = 0x3FE0000000000000 ∧ f64Bits (3 * 2 ^ 51) = 0x3FE8000000000000 := by
  decide

/-- Settles O31: the value is the top 53 bits over 2^53, and the pattern lies between its exponent field's ends
(`randomBits_cases`). -/
theorem randomNumerics : Obligations.RandomNumerics := by
  refine ⟨fun o => ?_, randomNumerics_fixedPoints⟩
  have hlt : ((o >>> 11).toNat : ℚ) < 2 ^ 53 := by exact_mod_cast topBits_lt o
  refine ⟨?_, ?_, ?_⟩
  · rw [f64Value_randomBits]; positivity
  · rw [f64Value_randomBits]; exact (div_lt_one (by positivity)).mpr hlt
  · rcases randomBits_cases o with h | ⟨hsign, hlow, hhigh⟩
    · rw [h]; decide
    · have hfrac := ((randomBits o).extractLsb' 0 52).isLt
      have htoNat := toNat_eq_expo_frac hsign
      exact ⟨hsign, by omega, fun h => by omega, .inr (by omega), by omega⟩

/-! ### The command (R180) -/

theorem exec_random_of_seeded {s : State} (h : s.seeded = true) :
    exec .random s = .next { draw s with
      rspOut := s.rspOut ++ [⟨.ok, le64 (f64Bits ((draw s).out >>> 11).toNat)⟩] } := by
  rw [exec_eq_after, after, whenSeeded_of_seeded h]; rfl

/-- A command that needs a seed answers `ERR_UNSEEDED` without one, and nothing else changes (60_exceptions.md R243). -/
theorem exec_of_unseeded {i : Instr} {s : State} (hi : needsSeed i = true) (h : s.seeded = false) :
    exec i s = .next { s with rspOut := s.rspOut ++ [⟨.errUnseeded, []⟩] } := by
  rw [exec_eq_after, after_of_unseeded hi h]; rfl

theorem decode_packWord_random {c : Config} (hc : c.hasDerived = true) (a b : Word) :
    decode c (packWord 0x05 a b) = .ok .random := by
  rw [decode_random c (opField_packWord 0x05 a b), if_pos hc]

/-- Settles O29: the two meanings of RANDOM; the example's draw is `drawOut_example`. -/
theorem randomDrawsOnce : Obligations.RandomDrawsOnce := by
  refine ⟨fun c a b hc => decode_packWord_random hc a b, fun s => exec_random_of_seeded,
    fun s => exec_of_unseeded rfl, _, exec_random_of_seeded rfl, ?_⟩
  simp only [draw_out, drawOut_example]
  decide +kernel

end Sys2Proof.Machine
end

section
/-!
PROOFS. The derived chapter (43_derived.md), RANDINT: its exact quantities (R187) and its corner cases (R188).
-/

namespace Sys2Proof.Machine

/-! ### `span` and `limit` (R187) -/

theorem limitOf_eq_sub_mod (span : Nat) : limitOf span = 2 ^ 64 - 2 ^ 64 % span := Nat.div_mul_self_eq_mod_sub_self

theorem limitOf_le (span : Nat) : limitOf span ≤ 2 ^ 64 := Nat.div_mul_le_self _ _

section Limit

variable {span : Nat}

/-- Up to 2^63 less than one span is cut off; above, the limit is the span itself. -/
theorem two_pow_63_lt_limitOf (h1 : 1 ≤ span) (h : span ≤ 2 ^ 64) : 2 ^ 63 < limitOf span := by
  rcases Nat.lt_or_ge (2 ^ 63) span with hbig | hsmall
  · exact hbig.trans_le (Nat.le_mul_of_pos_left _ (Nat.div_pos h h1))
  · have hmod := Nat.mod_lt (2 ^ 64) h1
    rw [limitOf_eq_sub_mod]
    omega

theorem limitOf_eq_two_pow_64_iff : limitOf span = 2 ^ 64 ↔ ∃ j, span = 2 ^ j ∧ j ≤ 64 := by
  rw [limitOf, ← Nat.dvd_iff_div_mul_eq, Nat.dvd_prime_pow Nat.prime_two]
  simp only [and_comm]

/-- A draw is a 64-bit word, so a full limit rejects none. -/
theorem toNat_lt_of_limitOf_eq (h : limitOf span = 2 ^ 64) (o : Word) : o.toNat < limitOf span := h ▸ o.isLt

end Limit

/-! ### The result (R187) -/

/-- An integer of the signed range survives `to_u64` (00_scope.md R19). -/
theorem sint64_toU64 {z : Int} (h : -(2 ^ 63) ≤ z) (h' : z < 2 ^ 63) : sint64 (toU64 z) = z := by
  rw [sint64_eq_toInt, toU64, BitVec.toInt_ofInt_eq_self (by decide) h h']

theorem toU64_add_natCast (z : Int) (n : Nat) : toU64 (z + n) = toU64 z + BitVec.ofNat 64 n := by
  rw [toU64, BitVec.ofInt_add, BitVec.ofInt_natCast]; rfl

section Range

variable {a b : Int} (hab : a ≤ b)
include hab

theorem spanOf_cast : (spanOf a b : Int) = b - a + 1 := Int.toNat_of_nonneg (by omega)

theorem spanOf_pos : 1 ≤ spanOf a b := by
  have := spanOf_cast hab
  omega

theorem randintResult_mem (o : Word) :
    a ≤ randintResult (randintWork a b) o ∧ randintResult (randintWork a b) o ≤ b := by
  have hspan := spanOf_cast hab
  have hmod := Nat.mod_lt o.toNat (spanOf_pos hab)
  simp only [randintResult, randintWork]
  omega

end Range

/-- Settles O32: `limit` is 2^64 less the remainder of 2^64 by `span`, and the result stays between its bounds
(`randintResult_mem`), so `to_u64` loses nothing. -/
theorem randintArithmetic : Obligations.RandintArithmetic := by
  intro a b hab span limit
  have ha := sint64_ge a
  have hb := sint64_lt b
  have hspan : (span : Int) = sint64 b - sint64 a + 1 := spanOf_cast hab
  have hpos : 1 ≤ span := spanOf_pos hab
  have hle : span ≤ 2 ^ 64 := by omega
  have hlow : 2 ^ 63 < limit := two_pow_63_lt_limitOf hpos hle
  refine ⟨hspan, hpos, hle, hlow, limitOf_le span, limitOf_eq_sub_mod span, by omega, ?_, toNat_lt_of_limitOf_eq,
    fun o => ?_⟩
  · refine limitOf_eq_two_pow_64_iff.trans (exists_congr fun j => and_iff_left_of_imp fun h => ?_)
    exact (Nat.pow_le_pow_iff_right one_lt_two).mp (h ▸ hle)
  · intro r
    obtain ⟨har, hrb⟩ : sint64 a ≤ r ∧ r ≤ sint64 b := randintResult_mem hab o
    exact ⟨Nat.mod_lt _ hpos, rfl, har, hrb, sint64_toU64 (by omega) (by omega),
      (toU64_add_natCast (sint64 a) _).trans (by rw [toU64_sint64]; rfl)⟩

/-! ### Corner cases (R188) -/

theorem exec_randint_of_le {s : State} {a b : Word} (hs : s.seeded = true) (hab : sint64 a ≤ sint64 b) :
    exec (.randint a b) s = .next (randintTurn (randintWork (sint64 a) (sint64 b)) s) := by
  rw [exec_eq_after, after, whenSeeded_of_seeded hs, randintSeeded]
  exact congrArg Host.Outcome.next (if_neg (Int.not_lt.mpr hab))

theorem exec_randint_of_lt {s : State} {a b : Word} (hs : s.seeded = true) (hab : sint64 b < sint64 a) :
    exec (.randint a b) s = .next { s with rspOut := s.rspOut ++ [⟨.errInvalidRange, []⟩] } := by
  rw [exec_eq_after, after_of_rangeEmpty hs hab]; rfl

theorem randintTurn_of_lt {w : RandintWork} {s : State} (h : (drawOut s).toNat < w.limit) :
    randintTurn w s = { draw s with
      inflight := none
      rspOut := s.rspOut ++ [⟨.ok, le64 (toU64 (randintResult w (drawOut s)))⟩] } := if_pos h

theorem spanOf_self (a : Int) : spanOf a a = 1 := by
  rw [spanOf, sub_self]; rfl

theorem limitOf_one : limitOf 1 = 2 ^ 64 := by decide

/-- A range of one element: every draw is accepted and gives that element (R188 (a)). -/
theorem exec_randint_self {s : State} (hs : s.seeded = true) (a : Word) :
    exec (.randint a a) s = .next { draw s with inflight := none, rspOut := s.rspOut ++ [⟨.ok, le64 a⟩] } := by
  have hwork : randintWork (sint64 a) (sint64 a) = ⟨sint64 a, 1, 2 ^ 64⟩ := by
    rw [randintWork, spanOf_self, limitOf_one]
  have hresult : randintResult ⟨sint64 a, 1, 2 ^ 64⟩ (drawOut s) = sint64 a := by
    rw [randintResult, Nat.mod_one]; exact add_zero _
  rw [exec_randint_of_le hs le_rfl, hwork, randintTurn_of_lt (drawOut s).isLt, hresult, toU64_sint64]

/-- Adding the sign bit flips it: its carry leaves the word. -/
theorem add_signBit_eq_xor (o : Word) : 0x8000000000000000 + o = o ^^^ 0x8000000000000000 := by
  refine BitVec.eq_of_getLsbD_eq fun i hi => ?_
  have hbit : (0x8000000000000000 : Word).getLsbD i = decide (i + 1 = 64) := BitVec.getLsbD_intMin 64
  rw [BitVec.getLsbD_xor, hbit, BitVec.getLsbD, BitVec.toNat_add, Nat.testBit_mod_two_pow, decide_eq_true hi,
    Bool.true_and, show (0x8000000000000000 : Word).toNat = 2 ^ 63 from rfl, BitVec.getLsbD]
  rcases Nat.lt_or_ge i 63 with h | h
  · rw [Nat.testBit_two_pow_add_gt h, decide_eq_false (by omega), Bool.xor_false]
  · obtain rfl : i = 63 := by omega
    rw [Nat.testBit_two_pow_add_eq, decide_eq_true rfl, Bool.xor_true]

/-- Over the full range the result is the draw with its sign bit flipped (R188 (b)). -/
theorem toU64_randintResult_fullRange (o : Word) :
    toU64 (randintResult (randintWork (-(2 ^ 63)) (2 ^ 63 - 1)) o) = o ^^^ 0x8000000000000000 := by
  have hmod : o.toNat % spanOf (-(2 ^ 63)) (2 ^ 63 - 1) = o.toNat := Nat.mod_eq_of_lt o.isLt
  rw [randintResult, randintWork, hmod, toU64_add_natCast, BitVec.ofNat_toNat, BitVec.setWidth_eq]
  exact add_signBit_eq_xor o

/-- Settles O36: (a) is `exec_randint_self`, (b) flips the sign bit, (c) no limit is 2^63 or less, and (d) and (e) are
the empty range in the signed order. -/
theorem randintCornerCases : Obligations.RandintCornerCases := by
  refine ⟨fun s a hs => ⟨spanOf_self _, limitOf_one, exec_randint_self hs a⟩,
    ⟨rfl, by decide, toU64_randintResult_fullRange⟩, ⟨rfl, by decide, fun span h1 h => ?_⟩,
    fun s hs => exec_randint_of_lt hs (by decide), by decide, fun s hs => exec_randint_of_lt hs (by decide)⟩
  rw [show limitOf (2 ^ 63 + 1) = 2 ^ 63 + 1 by decide]
  exact two_pow_63_lt_limitOf h1 h

end Sys2Proof.Machine
end

section
/-!
PROOFS. The derived chapter (43_derived.md), RANDBYTES: the command (R195), and its draws and bytes (R196, R197).
-/

namespace Sys2Proof.Machine

/-! ### The command (R195) -/

theorem exec_randbytes_of_seeded {s : State} (h : s.seeded = true) (n : Word) :
    exec (.randbytes n) s = .next { drawN (drawsFor n.toNat) s with
      rspOut := s.rspOut ++ [⟨.ok, randbytesPayload n.toNat s⟩] } := by
  rw [exec_eq_after, after, whenSeeded_of_seeded h, randbytesSeeded, respond, drawN_rspOut]; rfl

theorem decode_packWord_randbytes {c : Config} (hc : c.hasDerived = true) (n b : Word) :
    decode c (packWord 0x07 n b) = .ok (.randbytes n) := by
  rw [decode_randbytes c (opField_packWord 0x07 n b), if_pos hc, aField_packWord]

/-- The new words of the second draw after R160's example. -/
theorem drawWords_example_second : drawWords (draw (exampleState 0xDEADBEEFCAFEBABE)) =
    ⟨0x30568E53DEDA7F42, 0xB10618793380C48A, 0x5A980FB5C6AB200E, 0xB378D61AC246B164⟩ := by
  rw [drawWords]
  simp only [draw_cfg, draw_s0, draw_s1, draw_s2, draw_s3, drawWords_example, drawOut_example]
  decide

/-- The second draw after R160's example, which gives R195's example its ninth byte. -/
theorem drawOut_example_second : drawOut (draw (exampleState 0xDEADBEEFCAFEBABE)) = 0x4F44A9BDDF07278C := by
  have hcounter : (draw (exampleState 0xDEADBEEFCAFEBABE)).counter = 0x517CC1B727220A96 := by decide
  rw [drawOut, drawWords_example_second, hcounter, draw_cfg]
  decide +kernel

/-- Settles O37: the command's bytes are those of its draws in order (`drawBytes_eq`); the example's two draws are
`drawOut_example` and `drawOut_example_second`. -/
theorem randbytesAnswersBytes : Obligations.RandbytesAnswersBytes := by
  refine ⟨fun c n b hc => decode_packWord_randbytes hc n b, fun s n hs => ?_, fun s n => exec_of_unseeded rfl,
    _, exec_randbytes_of_seeded rfl 9, ?_⟩
  · rw [exec_randbytes_of_seeded hs, randbytesPayload, drawBytes_eq]; rfl
  · have hdraws : drawsFor (9 : Word).toNat = 2 := by decide
    simp only [hdraws, randbytesPayload, drawBytes, drawN_succ, drawN_zero, draw_out, draw_counter,
      drawOut_example, drawOut_example_second]
    decide +kernel

/-! ### Draws and bytes (R196, R197) -/

/-- The number of draws is the least with at least `n` bytes. -/
theorem drawsFor_least (n : Nat) : n ≤ 8 * drawsFor n ∧ 8 * drawsFor n < n + 8 := by
  rw [drawsFor]
  omega

theorem randbytesPayload_length (n : Nat) (s : State) : (randbytesPayload n s).length = n := by
  rw [randbytesPayload, List.length_take, drawBytes_length, Nat.min_eq_left (drawsFor_least n).1]

theorem randbytesPayload_getElem? {n i : Nat} (h : i < n) (s : State) :
    (randbytesPayload n s)[i]? = (le64 (drawOut (drawN (i / 8) s)))[i % 8]? := by
  rw [randbytesPayload, List.getElem?_take_of_lt h, drawBytes_getElem? _ _ _ (h.trans_le (drawsFor_least n).1)]

theorem drawsFor_mul_eight (k : Nat) : drawsFor (8 * k) = k := by
  rw [drawsFor]
  omega

/-- A request of whole draws takes all their bytes. -/
theorem randbytesPayload_mul_eight (k : Nat) (s : State) : randbytesPayload (8 * k) s = drawBytes k s := by
  rw [randbytesPayload, drawsFor_mul_eight, List.take_of_length_le (drawBytes_length k s).le]

/-- Two requests of whole draws, one after the other, give the bytes of their sum. -/
theorem randbytesPayload_append (j k : Nat) (s : State) :
    randbytesPayload (8 * j) s ++ randbytesPayload (8 * k) (drawN (drawsFor (8 * j)) s) =
      randbytesPayload (8 * (j + k)) s := by
  simp only [randbytesPayload_mul_eight, drawsFor_mul_eight, drawBytes_add]

/-- A request of up to eight bytes takes the low bytes of one draw. -/
theorem randbytesPayload_of_one_draw {n : Nat} (h : drawsFor n = 1) (s : State) :
    randbytesPayload n s = (le64 (drawOut s)).take n := by
  rw [randbytesPayload, h, drawBytes, drawBytes, List.append_nil]

theorem exec_randbytes_zero (s : State) :
    exec (.randbytes 0) s =
      .next { s with rspOut := s.rspOut ++ [⟨if s.seeded then .ok else .errUnseeded, []⟩] } := by
  rcases Bool.eq_false_or_eq_true s.seeded with hs | hs
  · rw [exec_randbytes_of_seeded hs, if_pos hs]; rfl
  · rw [exec_of_unseeded rfl hs, if_neg (by simp [hs])]

/-- Settles O38: byte `i` is byte `i mod 8` of draw `i / 8` (`randbytesPayload_getElem?`), and requests of whole draws
join (`randbytesPayload_append`). -/
theorem randbytesPayloadBytes : Obligations.RandbytesPayloadBytes := by
  refine ⟨drawsFor_least, fun s n i h => ?_, fun s n => randbytesPayload_length n s,
    randbytesPayload_append 1 1, fun s => ?_, fun s n hs => exec_randbytes_of_seeded hs n, exec_randbytes_zero, by decide⟩
  · rw [randbytesPayload_getElem? h]
    exact ⟨le64_getElem? _ (Nat.mod_lt i (by decide)), by rw [le64_drawOut]⟩
  · rw [randbytesPayload_of_one_draw (by decide), randbytesPayload_of_one_draw (by decide)]; rfl

end Sys2Proof.Machine
end

section
/-!
PROOFS. The inspection chapter (44_inspect.md): RDREG, its two checks and the read-out map (R210, R213).
-/

namespace Sys2Proof.Machine

/-! ### RDREG (R210, R213) -/

theorem decode_packWord_rdreg {c : Config} (hc : c.hasRdreg = true) (x b : Word) :
    decode c (packWord 0x08 x b) = .ok (.rdreg x) := by
  rw [decode_rdreg c (opField_packWord 0x08 x b), if_pos hc, aField_packWord]

/-- The index check comes first, whether or not the core is seeded. -/
theorem exec_rdreg_of_indexReserved (s : State) {x : Word} (hx : 8 ≤ x.toNat) :
    exec (.rdreg x) s = .next { s with rspOut := s.rspOut ++ [⟨.errIllegal, []⟩] } := by
  rw [exec_eq_after, after_of_indexReserved s hx]; rfl

/-- A register of the read-out map is answered where the `seeded` requirement, made of indices 0 to 5 only, is met. -/
theorem exec_rdreg_of_readReg {x v : Word} {s : State} (hv : readReg x.toNat s = some v)
    (hs : x.toNat ≤ 5 → s.seeded = true) :
    exec (.rdreg x) s = .next { s with rspOut := s.rspOut ++ [⟨.ok, le64 v⟩] } := by
  rw [exec_eq_after, after, indexOperand]
  rcases rdregState_cases x.toNat s with ⟨h8, -⟩ | ⟨h5, hunseeded, -⟩ | ⟨-, -, v', hv', h⟩
  · rw [readReg_reserved s h8] at hv; cases hv
  · rw [hs h5] at hunseeded; cases hunseeded
  · obtain rfl : v' = v := Option.some.inj (hv'.symm.trans hv)
    rw [h]; rfl

/-- The counter after the draw of R160's example. -/
theorem draw_counter_example : (draw (exampleState 0xDEADBEEFCAFEBABE)).counter = 0x517CC1B727220A96 := by decide

/-- Settles O39: the two checks are `exec_rdreg_of_indexReserved` and `exec_of_unseeded`, and each index past them
answers its row of the read-out map (`exec_rdreg_of_readReg`); the example reads the counter after one draw. -/
theorem rdregReadsRegister : Obligations.RdregReadsRegister := by
  refine ⟨fun c x b hc => decode_packWord_rdreg hc x b, fun s x => exec_rdreg_of_indexReserved s,
    fun s x hx => exec_of_unseeded (decide_eq_true hx), fun s hs => ?_, fun s => ?_,
    _, _, _, exec_next_of_seeded rfl, exec_rdreg_of_readReg rfl fun _ => rfl, ?_,
    exec_rdreg_of_readReg rfl fun _ => rfl, ?_⟩
  · have answers {x v : Word} (hv : readReg x.toNat s = some v) := exec_rdreg_of_readReg hv fun _ => hs
    exact ⟨answers rfl, answers rfl, answers rfl, answers rfl, answers rfl, answers rfl⟩
  · have answers {x v : Word} (hx : ¬ x.toNat ≤ 5) (hv : readReg x.toNat s = some v) :=
      exec_rdreg_of_readReg hv fun h5 => absurd h5 hx
    exact ⟨answers (by decide) rfl, answers (by decide) rfl⟩
  · rw [List.getLast?_concat, draw_counter_example]; decide
  · rw [List.getLast?_concat]; rfl

end Sys2Proof.Machine
end

section
/-!
PROOFS. The reference digest chapter (48_reference_digest.md): H_FOLD on the draw's buffer (R232) and the check values of
SHA-256 (R230).
-/

namespace Sys2Proof.Machine

/-! ### H_FOLD (R232) -/

theorem h256_hFold_toList (m : List Byte) :
    (h256 .hFold m).toList = le64 (hFoldWord m) ++ List.replicate 24 0 := rfl

@[simp] theorem wordAt_le64_append_zero (v : Word) (rest : List Byte) : wordAt (le64 v ++ rest) 0 = v := by
  rw [wordAt, Nat.mul_zero, List.drop_zero, List.take_left' (le64_length v), fromLE64_le64]

@[simp] theorem wordAt_le64_append_succ (v : Word) (rest : List Byte) (j : Nat) :
    wordAt (le64 v ++ rest) (j + 1) = wordAt rest j := by
  have hdrop : (le64 v ++ rest).drop (8 * (j + 1)) = rest.drop (8 * j) := by
    rw [Nat.mul_succ, Nat.add_comm, ← List.drop_drop, List.drop_left' (le64_length v)]
  rw [wordAt, wordAt, hdrop]

@[simp] theorem wordAt_le64_zero (v : Word) : wordAt (le64 v) 0 = v := by
  rw [← List.append_nil (le64 v), wordAt_le64_append_zero]

/-- The five words H_FOLD reads in a draw's buffer are the five words the draw wrote there. -/
theorem hFoldWord_whiteningBuffer (n : NewWords) (counter : Word) :
    hFoldWord (whiteningBuffer n counter) = rawOf n + 3 * n.n0 + 5 * n.n1 + 7 * n.n2 + 11 * counter := by
  simp only [hFoldWord, whiteningBuffer, List.append_assoc, wordAt_le64_append_zero, wordAt_le64_append_succ,
    wordAt_le64_zero]

/-- Settles O58: the digest begins with the bytes of its fold, so `o` is the fold of the draw's buffer
(`hFoldWord_whiteningBuffer`). -/
theorem hFoldOutput : Obligations.HFoldOutput := by
  refine ⟨fun m _ => h256_hFold_toList m, fun n counter => ?_⟩
  rw [whiten, h256_hFold_toList, List.take_left' (le64_length _), fromLE64_le64, hFoldWord_whiteningBuffer]

/-! ### SHA-256 (R230) -/

/-- Settles O59: each digest is computed by the kernel from the model's SHA-256; `o` is read from the bytes of the last. -/
theorem sha256CheckValues : Obligations.Sha256CheckValues := by
  refine ⟨?empty, ?abc, ?zeros, ?counting, ?output⟩
  case empty => decide +kernel
  case abc => decide +kernel
  case zeros => decide +kernel
  case counting => decide +kernel
  case output => decide

end Sys2Proof.Machine
end

section
/-!
PROOFS. The exceptions chapter (60_exceptions.md): which errors are answered, in which order, and what they leave
unchanged (R241 to R243, R250).
-/

namespace Sys2Proof.Machine

/-! ### The errors of a command (R242, R243, R250) -/

/-- A command that meets an error's condition answers that error alone. -/
theorem exec_of_raises {i : Instr} {s : State} {e : CoreError} (h : Raises i s e) :
    exec i s = .next { s with rspOut := s.rspOut ++ [⟨e.status, []⟩] } := by
  rw [exec_eq_after, after_of_raises h]; rfl

/-- A command answers an error exactly when it meets that error's condition. -/
theorem answers_error_iff_raises {i : Instr} {s t : State} (ht : exec i s = .next t) (e : CoreError) :
    t.rspOut = s.rspOut ++ [⟨e.status, []⟩] ↔ Raises i s e := by
  obtain rfl := (exec_next_iff i s t).mp ht
  constructor
  · intro hr
    exact (status_eq_iff_raises hr e).mp rfl
  · intro h
    rw [after_of_raises h, raiseError_rspOut]

theorem raises_illegal_of_indexLegal_false {i : Instr} (hi : i.indexLegal = false) (s : State) :
    Raises i s .illegal := by
  cases i with
  | seed _ | seede | reseed _ | next | random | randint _ _ | randbytes _ => cases hi
  | rdreg x => exact ⟨x, rfl, Nat.le_of_not_lt (of_decide_eq_false hi)⟩

/-- Settles O45: of the three error conditions InvalidRange's is the one the statement names
(`answers_error_iff_raises`), and `exec_randint_of_lt` is the state it leaves. -/
theorem invalidRangeRaisedExactly : Obligations.InvalidRangeRaisedExactly :=
  ⟨rfl, fun _ _ _ ht => answers_error_iff_raises ht .invalidRange, fun _ _ _ => exec_randint_of_lt⟩

/-- Settles O46: each class of the order, under the premise that no earlier one applies, answers its error alone;
RANDINT 5, 3 is of the unseeded class, RDREG 9 of the reserved-index class. -/
theorem errorPriority : Obligations.ErrorPriority := by
  have reservedIndex {i : Instr} (hi : i.indexLegal = false) (s : State) :=
    exec_of_raises (raises_illegal_of_indexLegal_false hi s)
  exact ⟨fun s cw rest e hidle hword hd => step_of_decode_error hidle hword hd, fun i s hi => reservedIndex hi s,
    fun i s _ => exec_of_unseeded, fun s a b => exec_randint_of_lt, fun s => exec_of_unseeded rfl, reservedIndex rfl⟩

/-! ### The steps that answer an error (R241) -/

theorem status_of_randintTurn {w : RandintWork} {s : State} {r : Response}
    (hr : (randintTurn w s).rspOut = s.rspOut ++ [r]) : r.status = .ok := by
  rcases randintTurn_cases w s with ⟨-, h⟩ | ⟨-, h⟩ <;> rw [h] at hr
  · exact status_of_respond (draw_rspOut s) hr
  · simp at hr

/-- A step that answers an error took one command word and raised one error on the state without it; it raised Unseeded
on an unseeded core only. -/
theorem stepState_of_error {s : State} {r : Response} (hr : (stepState s).rspOut = s.rspOut ++ [r])
    (herr : r.status ≠ .ok) :
    ∃ cw rest e, s.inflight = none ∧ s.cmdIn = .command cw :: rest ∧
      stepState s = raiseError e { s with cmdIn := rest } ∧ (e = .unseeded → s.seeded = false) := by
  rcases stepState_cases s with ⟨-, -, h⟩ | ⟨rest, -, h⟩ | ⟨w, -, -, h⟩ | ⟨cw, rest, -, hidle, hword, -, h⟩ |
    ⟨cw, rest, i, hidle, hword, -, h⟩ <;> rw [h] at hr
  · simp at hr
  · simp at hr
  · exact absurd (status_of_randintTurn hr) herr
  · exact ⟨cw, rest, .illegal, hidle, hword, h, nofun⟩
  · rcases status_of_answer hr with hok | ⟨e, hraises, -⟩
    · exact absurd hok herr
    · refine ⟨cw, rest, e, hidle, hword, h.trans (after_of_raises hraises), ?_⟩
      rintro rfl
      exact hraises.2

/-- Settles O43: a step that answers an error raised it on the state with the command word taken
(`stepState_of_error`), and raising an error only responds. -/
theorem errorsLeaveTheState : Obligations.ErrorsLeaveTheState := by
  intro s t r ht hr herr
  obtain rfl := (step_next_iff s t).mp ht
  obtain ⟨cw, rest, e, hidle, hword, h, -⟩ := stepState_of_error hr herr
  rw [h, raiseError_rspOut, List.append_cancel_left_eq, List.singleton_inj] at hr
  subst hr
  rw [h]
  exact ⟨rfl, hidle, cw, hword, rfl⟩

/-! ### `seeded` and the steps (R243) -/

@[simp] theorem randintTurn_seeded (w : RandintWork) (s : State) : (randintTurn w s).seeded = s.seeded := by
  rcases randintTurn_cases w s with ⟨-, h⟩ | ⟨-, h⟩ <;> rw [h] <;> rfl

/-- A seeded core stays seeded in every step but one that takes a reset. -/
theorem stepState_seeded_or_reset {s : State} (hs : s.seeded = true) :
    (stepState s).seeded = true ∨
      ∃ rest, s.cmdIn = .resetNow :: rest ∨ (s.inflight = none ∧ s.cmdIn = .resetIdle :: rest) := by
  rcases stepState_cases s with ⟨-, -, h⟩ | ⟨rest, hreset, -⟩ | ⟨w, -, -, h⟩ | ⟨cw, rest, -, -, -, -, h⟩ |
    ⟨cw, rest, i, -, -, -, h⟩
  · exact .inl (by rwa [h])
  · exact .inr ⟨rest, hreset⟩
  · exact .inl (by rw [h, randintTurn_seeded, hs])
  · exact .inl (by rw [h, raiseError_seeded, hs])
  · exact .inl (by rw [h, after_seeded, hs, Bool.true_or])

theorem stepState_seeded_of_noResetNext {s : State} (hs : s.seeded = true) (hno : noResetNext s) :
    (stepState s).seeded = true := by
  rcases stepState_seeded_or_reset hs with h | ⟨rest, hnow | ⟨-, hidle⟩⟩
  · exact h
  · exact absurd hnow (hno rest).1
  · exact absurd hidle (hno rest).2

theorem stepState_rspOut_ne_unseeded {s : State} (hs : s.seeded = true) :
    (stepState s).rspOut ≠ s.rspOut ++ [⟨.errUnseeded, []⟩] := by
  intro hr
  obtain ⟨-, rest, e, -, -, h, hunseeded⟩ := stepState_of_error hr (by decide)
  have he : e.status = CoreError.unseeded.status := by
    rw [h] at hr
    exact (status_of_respond rfl hr).symm
  exact absurd (hunseeded (coreError_status_injective he)) (by simp [hs])

/-- Settles O44: a command answers Unseeded by its condition (`answers_error_iff_raises`); a seeding sets `seeded`,
which only a reset clears (`stepState_seeded_or_reset`), and no step of a seeded core raises Unseeded. -/
theorem unseededRaisedExactly : Obligations.UnseededRaisedExactly := by
  refine ⟨rfl, fun i s t ht => (answers_error_iff_raises ht .unseeded).trans and_comm, fun i s t hi ht => ?seeding,
    fun s t hs hno ht => ?kept⟩
  case seeding =>
    rw [(exec_next_iff i s t).mp ht, after_seeded, hi, Bool.or_true]
  case kept =>
    obtain rfl := (step_next_iff s t).mp ht
    exact ⟨stepState_seeded_of_noResetNext hs hno, stepState_rspOut_ne_unseeded hs⟩

end Sys2Proof.Machine
end

section
/-!
PROOFS. Decoding inverts encoding (30_encoding.md R81, R84, R86).
-/

namespace Sys2Proof

/-- The opcode map selects a command from the fields it is encoded with. -/
theorem decodeOp_fields (i : Instr) : decodeOp i.opcode i.aOperand i.bOperand = some i := by cases i <;> rfl

theorem decode_encode {c : Config} {i : Instr} (h : i.present c = true) : decode c (encode i) = .ok i := by
  obtain ⟨hop, ha, hb⟩ := Laws.Encoding.statement_of_packWord i
  simp only [decode, hop, ha, hb, decodeOp_fields, h, if_true]

/-- The first 17 bytes of a string are the word decoded, and what stands behind them is left. -/
theorem decodeBytes_bytesOfWord_append {c : Config} {cw : CmdWord} {i : Instr} (rest : List Byte)
    (h : decode c cw = .ok i) : decodeBytes c (bytesOfWord cw ++ rest) = .ok (i, rest) := by
  have hlen : ¬ (bytesOfWord cw ++ rest).length < 17 := by simp
  simp only [decodeBytes, if_neg hlen, wordOfBytes_bytesOfWord_append, h, List.drop_left' (bytesOfWord_length cw)]

/-- Settles O2: a command's word decodes by its three fields (`decode_encode`), and its bytes
decode as its word does. -/
theorem decodeInvertsEncode : Obligations.DecodeInvertsEncode :=
  fun _ _ rest h => ⟨decode_encode h, decodeBytes_bytesOfWord_append rest (decode_encode h)⟩

end Sys2Proof
end

section
/-!
PROOFS. SEEDE (41_seeding.md R134, R135) and the four words of a seeding (10_state.md R37).
-/

namespace Sys2Proof.Machine

/-! ### The entropy reply (R134) -/

/-- A reply given in advance is the one taken, and it is used up. -/
theorem exec_seede_of_reply {s : State} {e : Vector Byte 8} {rest : List (Vector Byte 8)} (h : s.entIn = e :: rest) :
    exec .seede s = .next { seedProc (fromLE64 e.toList) s with
      entIn := rest, rspOut := s.rspOut ++ [⟨.ok, []⟩] } := by
  have hreply : entropyReply s = e := by rw [entropyReply, h]
  have hdrop : dropEntropy s = { s with entIn := rest } := by rw [dropEntropy, h]
  rw [exec_eq_after, after, hreply, hdrop]; rfl

/-- With none given in advance the reply is a free value, and the next one has the next number. -/
theorem exec_seede_of_noReply {s : State} (h : s.entIn = []) :
    exec .seede s = .next { seedProc (fromLE64 (Config.entropyReply s.entDrawn).toList) s with
      entDrawn := s.entDrawn + 1, rspOut := s.rspOut ++ [⟨.ok, []⟩] } := by
  have hreply : entropyReply s = Config.entropyReply s.entDrawn := by rw [entropyReply, h]
  have hdrop : dropEntropy s = { s with entDrawn := s.entDrawn + 1 } := by rw [dropEntropy, h]
  rw [exec_eq_after, after, hreply, hdrop]; rfl

/-- The four words of the rule's example, whose seed is 0x0807060504030201. -/
theorem seedWord_reference_seede :
    seedWord .reference 0x0807060504030201 0 = 0x5253B1642B0D6245 ∧
    seedWord .reference 0x0807060504030201 1 = 0xEFAA5DCB363DE193 ∧
    seedWord .reference 0x0807060504030201 2 = 0x828B59E339BC146E ∧
    seedWord .reference 0x0807060504030201 3 = 0x8B1E0830AF8F096A := by decide

/-- Settles O15: the two sources of the reply are `exec_seede_of_reply` and `exec_seede_of_noReply`; the example's words
are `seedWord_reference_seede`. -/
theorem seedeSeedsFromOneReply : Obligations.SeedeSeedsFromOneReply := by
  refine ⟨fun c a b => decode_seede c (opField_packWord 0x02 a b), fun s e rest => exec_seede_of_reply,
    fun s => exec_seede_of_noReply, fun s hmix hent => ?_⟩
  have hseed : fromLE64 (#v[1, 2, 3, 4, 5, 6, 7, 8] : Vector Byte 8).toList = 0x0807060504030201 := by decide
  obtain ⟨h0, h1, h2, h3⟩ := hmix ▸ seedWord_reference_seede
  refine ⟨_, exec_seede_of_reply hent, ?_⟩
  rw [hseed]
  exact ⟨rfl, h0, h1, h2, h3, rfl⟩

/-! ### Four different words (10_state.md R37) -/

/-- The four words are `MIX64` of four different arguments, and `MIX64` is injective. -/
theorem seedWord_injective {p : MixParams} (hp : p.wf = true) (k : Word) {i j : Nat} (hi : i < 4) (hj : j < 4)
    (h : seedWord p k i = seedWord p k j) : i = j := by
  have harg : BitVec.ofNat 64 (i + 1) = BitVec.ofNat 64 (j + 1) := add_left_cancel ((mix64_bijective hp).injective h)
  have htoNat := congrArg BitVec.toNat harg
  rw [BitVec.toNat_ofNat, BitVec.toNat_ofNat] at htoNat
  omega

/-- Settles O18: `seedWord_injective` at each of the six pairs. -/
theorem seededWordsDistinct : Obligations.SeededWordsDistinct := by
  intro s t k hwf ht
  obtain rfl := (exec_next_iff _ s t).mp ht
  refine ⟨?_, ?_, ?_, ?_, ?_, ?_⟩ <;> exact mt (seedWord_injective hwf k (by decide) (by decide)) (by decide)

end Sys2Proof.Machine
end

section
/-!
PROOFS. What a step does in each case of fetching (20_memory.md R71; 60_exceptions.md R262; 70_reset_and_hazards.md
R271, R280): the cases of `stepState_cases` as equations.
-/

namespace Sys2Proof.Machine

theorem stepState_of_idle {s : State} (hidle : s.inflight = none) (hempty : s.cmdIn = []) : stepState s = s := by
  simp only [stepState, fetch, hidle, hempty]

/-- A reset is taken at once where it says so, and else by an idle core. -/
theorem stepState_of_reset {s : State} {rest : List HostEvent}
    (h : s.cmdIn = .resetNow :: rest ∨ (s.inflight = none ∧ s.cmdIn = .resetIdle :: rest)) :
    stepState s = applyReset { s with cmdIn := rest } := by
  rcases h with hnow | ⟨hidle, hevent⟩
  · cases hw : s.inflight <;> simp only [stepState, fetch, hw, hnow]
  · simp only [stepState, fetch, hidle, hevent]

/-- A RANDINT in progress takes its next turn, whatever else waits. -/
theorem stepState_of_inflight {s : State} {w : RandintWork} (hw : s.inflight = some w)
    (hno : ∀ r, s.cmdIn ≠ .resetNow :: r) : stepState s = randintTurn w s := by
  rcases stepState_cases s with ⟨hidle, -⟩ | ⟨rest, hnow | ⟨hidle, -⟩, -⟩ | ⟨w', hw', -, h⟩ |
    ⟨-, -, -, hidle, -⟩ | ⟨-, -, -, hidle, -⟩
  · rw [hw] at hidle; cases hidle
  · exact absurd hnow (hno rest)
  · rw [hw] at hidle; cases hidle
  · obtain rfl : w' = w := Option.some.inj (hw'.symm.trans hw)
    exact h
  · rw [hw] at hidle; cases hidle
  · rw [hw] at hidle; cases hidle

section Waiting

variable {s : State} {cw : CmdWord} {rest : List HostEvent} (hidle : s.inflight = none)
  (hword : s.cmdIn = .command cw :: rest)
include hidle hword

theorem stepState_of_decode_error {e : DecodeError} (hd : decode s.cfg cw = .error e) :
    stepState s = raiseError .illegal { s with cmdIn := rest } :=
  ((step_next_iff _ _).mp (step_of_decode_error hidle hword hd)).symm

theorem stepState_of_decode_ok {i : Instr} (hd : decode s.cfg cw = .ok i) :
    stepState s = after i { s with cmdIn := rest } :=
  ((step_next_iff _ _).mp (step_of_decode_ok hidle hword hd)).symm

end Waiting

/-- Settles O49: `step_of_decode_ok`, and what a command leaves is its `exec`. -/
theorem stepRunsDecodedCommand : Obligations.StepRunsDecodedCommand := by
  intro s cw i rest hidle hword hd
  rw [step_of_decode_ok hidle hword hd, exec_eq_after]

/-- Settles O50: an idle core's step is `stepState_of_idle`; a placed word is first in the queue of a core with nothing
in progress, so O49 applies to it. -/
theorem idleHoldsAndFetchTakesWord : Obligations.IdleHoldsAndFetchTakesWord := by
  refine ⟨fun s hidle hempty => by rw [step_eq, stepState_of_idle hidle hempty], fun s w i hw hd => ?_⟩
  have hword : (s.withFetchWord 136 w).cmdIn = .command (BitVec.ofNat 136 w) :: s.cmdIn := by
    rw [State.withFetchWord, Nat.mod_eq_of_lt hw]
  exact stepRunsDecodedCommand _ _ i s.cmdIn rfl hword hd

/-- Settles O52: each clause is a field of `State.reset`. -/
theorem resetState : Obligations.ResetState := ⟨rfl, rfl, rfl, rfl⟩

/-- Settles O53: both events reset the state with the event taken (`stepState_of_reset`). -/
theorem resetEvents : Obligations.ResetEvents := by
  intro s rest hevent
  refine ⟨_, step_eq s, ?_⟩
  rw [stepState_of_reset hevent]
  exact ⟨rfl, rfl, rfl, rfl, rfl, rfl, rfl, rfl, rfl⟩

end Sys2Proof.Machine
end

section
/-!
PROOFS. What a command leaves unchanged (10_state.md section 9), and when `seeded` changes (10_state.md R34).
-/

namespace Sys2Proof.Machine

/-! ### What an operation keeps, its runs and its command keep -/

theorem drawN_keeps {α : Type} {f : State → α} (hdraw : ∀ s, f (draw s) = f s) (k : Nat) (s : State) :
    f (drawN k s) = f s := by
  induction k generalizing s with
  | zero => rfl
  | succ k ih => rw [drawN_succ, ih, hdraw]

/-- What answering, and each operation that the command `i` makes use of, leave unchanged, the command does too. -/
theorem after_keeps {α : Type} {f : State → α} {i : Instr} (hrespond : ∀ st p s, f (respond st p s) = f s)
    (hseeding : isSeeding i = true → ∀ k s, f (seedProc k s) = f s)
    (hentropy : i = .seede → ∀ s, f (dropEntropy s) = f s)
    (hdraw : isSeeding i = false → ∀ s, f (draw s) = f s)
    (hrandint : ∀ a b, i = .randint a b → ∀ s w, f { s with inflight := w } = f s) (s : State) :
    f (after i s) = f s := by
  rcases after_cases i s with ⟨hi, k, u, h, hu⟩ | ⟨-, e, h, -⟩ | ⟨-, rfl, h⟩ | ⟨-, rfl, h⟩ | ⟨-, n, rfl, h⟩ |
    ⟨-, a, b, rfl, -, h⟩ | ⟨x, v, -, -, -, -, h⟩ <;> rw [h]
  · rw [hrespond, hseeding hi]
    rcases hu with rfl | ⟨hseede, rfl⟩
    · rfl
    · exact hentropy hseede s
  · exact hrespond _ _ s
  · exact (hrespond _ _ _).trans (hdraw rfl s)
  · exact (hrespond _ _ _).trans (hdraw rfl s)
  · exact (hrespond _ _ _).trans (drawN_keeps (hdraw rfl) _ s)
  · rcases randintTurn_cases (randintWork (sint64 a) (sint64 b)) s with ⟨-, hturn⟩ | ⟨-, hturn⟩ <;> rw [hturn]
    · rw [hrespond, hrandint a b rfl, hdraw rfl]
    · rw [hrandint a b rfl, hdraw rfl]
  · exact hrespond _ _ s

/-! ### The fields a command keeps -/

@[simp] theorem after_cfg (i : Instr) (s : State) : (after i s).cfg = s.cfg :=
  after_keeps (fun _ _ _ => rfl) (fun _ _ _ => rfl) (fun _ => dropEntropy_cfg) (fun _ _ => rfl) (fun _ _ _ _ _ => rfl) s

@[simp] theorem after_cmdIn (i : Instr) (s : State) : (after i s).cmdIn = s.cmdIn :=
  after_keeps (fun _ _ _ => rfl) (fun _ _ _ => rfl) (fun _ => dropEntropy_cmdIn) (fun _ _ => rfl)
    (fun _ _ _ _ _ => rfl) s

@[simp] theorem after_epoch (i : Instr) (s : State) : (after i s).epoch = s.epoch :=
  after_keeps (fun _ _ _ => rfl) (fun _ _ _ => rfl) (fun _ => dropEntropy_epoch) (fun _ _ => rfl)
    (fun _ _ _ _ _ => rfl) s

theorem after_entIn {i : Instr} (hi : i ≠ .seede) (s : State) : (after i s).entIn = s.entIn :=
  after_keeps (fun _ _ _ => rfl) (fun _ _ _ => rfl) (fun h => absurd h hi) (fun _ _ => rfl) (fun _ _ _ _ _ => rfl) s

theorem after_entDrawn {i : Instr} (hi : i ≠ .seede) (s : State) : (after i s).entDrawn = s.entDrawn :=
  after_keeps (fun _ _ _ => rfl) (fun _ _ _ => rfl) (fun h => absurd h hi) (fun _ _ => rfl) (fun _ _ _ _ _ => rfl) s

theorem after_inflight {i : Instr} (hi : ∀ a b, i ≠ .randint a b) (s : State) : (after i s).inflight = s.inflight :=
  after_keeps (fun _ _ _ => rfl) (fun _ _ _ => rfl) (fun _ => dropEntropy_inflight) (fun _ _ => rfl)
    (fun a b h => absurd h (hi a b)) s

/-! ### What a command writes -/

/-- A seeding leaves the counter 1 and `out` 0 (41_seeding.md R131). -/
theorem after_of_isSeeding {i : Instr} (hi : isSeeding i = true) (s : State) :
    (after i s).counter = 1 ∧ (after i s).out = 0 := by
  cases i with
  | seed _ | seede | reseed _ => exact ⟨rfl, rfl⟩
  | next | random | randint _ _ | randbytes _ | rdreg _ => cases hi

theorem needsSeed_or_isSeeding_or_rdreg (i : Instr) :
    needsSeed i = true ∨ isSeeding i = true ∨ ∃ x, i = .rdreg x := by
  cases i with
  | seed _ | seede | reseed _ => exact .inr (.inl rfl)
  | next | random | randint _ _ | randbytes _ => exact .inl rfl
  | rdreg x => exact .inr (.inr ⟨x, rfl⟩)

theorem rdregState_frame (x : Nat) (s : State) : rdregState x s = { s with rspOut := (rdregState x s).rspOut } := by
  rcases rdregState_cases x s with ⟨-, h⟩ | ⟨-, -, h⟩ | ⟨-, -, v, -, h⟩ <;> rw [h] <;> rfl

/-- The commands that read or refuse, and no more: they change nothing but the responses. -/
theorem after_frame_of_readOnly {i : Instr} {s : State}
    (h : (∃ x, i = .rdreg x) ∨ i = .randbytes 0 ∨ (∃ a b, i = .randint a b ∧ sint64 b < sint64 a) ∨
      (s.seeded = false ∧ isSeeding i = false)) : after i s = { s with rspOut := (after i s).rspOut } := by
  have unseeded {i : Instr} (hi : needsSeed i = true) (hs : s.seeded = false) :
      after i s = { s with rspOut := (after i s).rspOut } := by rw [after_of_unseeded hi hs]; rfl
  rcases h with ⟨x, rfl⟩ | rfl | ⟨a, b, rfl, hab⟩ | ⟨hs, hi⟩
  · exact rdregState_frame x.toNat s
  · rcases Bool.eq_false_or_eq_true s.seeded with hs | hs
    · rw [after, whenSeeded_of_seeded hs]; rfl
    · exact unseeded rfl hs
  · rcases Bool.eq_false_or_eq_true s.seeded with hs | hs
    · rw [after_of_rangeEmpty hs hab]; rfl
    · exact unseeded rfl hs
  · rcases needsSeed_or_isSeeding_or_rdreg i with hneeds | hseeding | ⟨x, rfl⟩
    · exact unseeded hneeds hs
    · rw [hi] at hseeding; cases hseeding
    · exact rdregState_frame x.toNat s

/-- Settles O48: the fields kept are `after_keeps` at each field, the commands that only answer are
`after_frame_of_readOnly`, and NEXT and RANDOM respond after one draw. -/
theorem commandFrames : Obligations.CommandFrames := by
  intro i s t ht
  obtain rfl := (exec_next_iff i s t).mp ht
  refine ⟨after_cfg i s, after_cmdIn i s, after_epoch i s, fun hi => ⟨after_entIn hi s, after_entDrawn hi s⟩,
    fun hi => after_inflight hi s, fun hi => ⟨?_, after_of_isSeeding hi s⟩, fun hi => ⟨?_, after_seed hi s⟩,
    after_frame_of_readOnly, fun hs hi => ?_⟩
  · rw [after_seeded, hi, Bool.or_true]
  · rw [after_seeded, hi, Bool.or_false]
  · rcases hi with rfl | rfl <;> rw [after, whenSeeded_of_seeded hs] <;> rfl

/-! ### The steps (R34; 60_exceptions.md R245) -/

@[simp] theorem randintTurn_cfg (w : RandintWork) (s : State) : (randintTurn w s).cfg = s.cfg := by
  rcases randintTurn_cases w s with ⟨-, h⟩ | ⟨-, h⟩ <;> rw [h] <;> rfl

@[simp] theorem stepState_cfg (s : State) : (stepState s).cfg = s.cfg := by
  rcases stepState_cases s with ⟨-, -, h⟩ | ⟨rest, -, h⟩ | ⟨w, -, -, h⟩ | ⟨cw, rest, -, -, -, -, h⟩ |
    ⟨cw, rest, i, -, -, -, h⟩ <;> rw [h]
  · rfl
  · exact randintTurn_cfg w s
  · rfl
  · exact after_cfg i _

/-- Settles O51: a step answers `stepState`, which keeps the build. -/
theorem everyStepAnswers : Obligations.EveryStepAnswers := fun s => ⟨stepState s, step_eq s, stepState_cfg s⟩

/-- Only a seeding command makes a core seeded. -/
theorem isSeeding_of_stepState_seeded {s : State} (hs : s.seeded = false) (ht : (stepState s).seeded = true) :
    ∃ cw rest i, s.cmdIn = .command cw :: rest ∧ decode s.cfg cw = .ok i ∧ isSeeding i = true := by
  rcases stepState_cases s with ⟨-, -, h⟩ | ⟨rest, -, h⟩ | ⟨w, -, -, h⟩ | ⟨cw, rest, -, -, -, -, h⟩ |
    ⟨cw, rest, i, -, hword, hd, h⟩ <;> rw [h] at ht
  · simp [hs] at ht
  · simp at ht
  · simp [hs] at ht
  · simp [hs] at ht
  · exact ⟨cw, rest, i, hword, hd, by simpa [after_seeded, hs] using ht⟩

/-- Settles O54: `stepState_seeded_or_reset` is the way down, `isSeeding_of_stepState_seeded` the way up. -/
theorem seededChangesOnlySo : Obligations.SeededChangesOnlySo := by
  refine ⟨fun s t hs ht hunseeded => ?_, fun s t hs ht hseeded => ?_⟩
  · obtain rfl := (step_next_iff s t).mp ht
    exact (stepState_seeded_or_reset hs).resolve_left (by simp [hunseeded])
  · obtain rfl := (step_next_iff s t).mp ht
    exact isSeeding_of_stepState_seeded hs hseeded

end Sys2Proof.Machine
end

section
/-!
PROOFS. The derived chapter (43_derived.md), RANDINT: its turns (R186) and the whole command (R189).
-/

namespace Sys2Proof.Machine

/-! ### One turn (R186) -/

theorem randintTurn_of_le {w : RandintWork} {s : State} (h : w.limit ≤ (drawOut s).toNat) :
    randintTurn w s = { draw s with inflight := some w } := if_neg (Nat.not_lt.mpr h)

/-- Settles O33: the command is the first turn over its range (`exec_randint_of_le`), which accepts or rejects its
draw. -/
theorem randintFirstTurn : Obligations.RandintFirstTurn := by
  intro s a b hs hab
  rw [exec_randint_of_le hs hab]
  exact ⟨fun h => congrArg Host.Outcome.next (randintTurn_of_lt h),
    fun h => congrArg Host.Outcome.next (randintTurn_of_le h)⟩

/-! ### While draws are rejected (R189) -/

/-- A rejected draw of a RANDINT in progress: the step is the draw and nothing else. -/
theorem stepState_of_rejected {s : State} {w : RandintWork} (hw : s.inflight = some w)
    (hno : ∀ r, s.cmdIn ≠ .resetNow :: r) (h : w.limit ≤ (drawOut s).toNat) : stepState s = draw s := by
  rw [stepState_of_inflight hw hno, randintTurn_of_le h, ← hw]; rfl

theorem stepState_iterate_of_rejected {s : State} {w : RandintWork} (hw : s.inflight = some w)
    (hno : ∀ r, s.cmdIn ≠ .resetNow :: r) (k : Nat)
    (hrej : ∀ j, j < k → w.limit ≤ (drawN (j + 1) s).out.toNat) : stepState^[k] s = drawN k s := by
  induction k with
  | zero => rfl
  | succ k ih =>
    have hlast : w.limit ≤ (drawOut (drawN k s)).toNat := drawN_out k s ▸ hrej k k.lt_succ_self
    rw [Function.iterate_succ_apply', ih fun j hj => hrej j (Nat.lt_succ_of_lt hj), drawN_succ',
      stepState_of_rejected (by rwa [drawN_inflight]) (by simpa using hno) hlast]

/-- Settles O35: the `k` steps are `k` draws (`stepState_iterate_of_rejected`), which keep the responses, the queue and
the command in progress. -/
theorem randintWaitsWhileRejected : Obligations.RandintWaitsWhileRejected := by
  intro s w k hw hno hrej
  rw [run_eq, stepState_iterate_of_rejected hw hno k hrej]
  exact ⟨rfl, drawN_rspOut k s, drawN_cmdIn k s, (drawN_inflight k s).trans hw⟩

/-! ### The whole command -/

/-- A turn that accepts the draw after `k` rejected ones answers with it. -/
theorem stepState_iterate_of_accepted {s : State} {w : RandintWork} (hw : s.inflight = some w)
    (hno : ∀ r, s.cmdIn ≠ .resetNow :: r) (k : Nat)
    (hrej : ∀ j, j < k → w.limit ≤ (drawN (j + 1) s).out.toNat) (hacc : (drawN (k + 1) s).out.toNat < w.limit) :
    stepState^[k + 1] s = { drawN (k + 1) s with
      inflight := none
      rspOut := s.rspOut ++ [⟨.ok, le64 (toU64 (randintResult w (drawN (k + 1) s).out))⟩] } := by
  rw [drawN_out] at hacc
  rw [Function.iterate_succ_apply', stepState_iterate_of_rejected hw hno k hrej,
    stepState_of_inflight (by rwa [drawN_inflight]) (by simpa using hno), randintTurn_of_lt hacc, drawN_succ',
    drawN_rspOut]; rfl

/-- A RANDINT taken from the queue makes the turn that it would make were it in progress already. -/
theorem stepState_of_randint {s : State} {cw : CmdWord} {a b : Word} {rest : List HostEvent} (hidle : s.inflight = none)
    (hword : s.cmdIn = .command cw :: rest) (hd : decode s.cfg cw = .ok (.randint a b)) (hs : s.seeded = true)
    (hab : sint64 a ≤ sint64 b) (hno : ∀ r, rest ≠ .resetNow :: r) :
    stepState s =
      stepState { s with inflight := some (randintWork (sint64 a) (sint64 b)), cmdIn := rest } := by
  have hexec := exec_randint_of_le (s := { s with cmdIn := rest }) hs hab
  rw [stepState_of_decode_ok hidle hword hd, stepState_of_inflight rfl hno, ← (exec_next_iff _ _ _).mp hexec]; rfl

/-- Settles O34: taking the command is the first turn of the RANDINT in progress (`stepState_of_randint`), so all
`k + 1` turns are those of one in progress (`stepState_iterate_of_accepted`), whose draws are those of `s`. -/
theorem randintRejectsThenAnswers : Obligations.RandintRejectsThenAnswers := by
  intro s cw a b rest k hidle hword hd hs hab hno hrej hacc
  have hdraws (n : Nat) := drawN_with n s s.seed (some (randintWork (sint64 a) (sint64 b))) rest s.rspOut
  rw [run_eq, Function.iterate_succ_apply, stepState_of_randint hidle hword hd hs hab hno,
    ← Function.iterate_succ_apply stepState, stepState_iterate_of_accepted rfl hno k, hdraws]
  · -- `drawN_with` also names the seed, which no draw writes.
    rw [← drawN_seed (k + 1) s]; rfl
  · intro j hj
    rw [hdraws]
    exact hrej j hj
  · rw [hdraws]
    exact hacc

end Sys2Proof.Machine
end

section
/-!
PROOFS. The responses of a command (30_encoding.md section 5), and RDREG's corner cases (44_inspect.md).
-/

namespace Sys2Proof.Machine

/-! ### The response of a command -/

theorem coreError_status_ne_ok (e : CoreError) : e.status ≠ .ok := by cases e <;> decide

/-- Settles O47: one case for each way a command can end (`after_cases`); only a RANDINT whose draw is rejected appends
nothing (`randintTurn_cases`), and a range it draws for bounds its answer (`randintResult_mem`). -/
theorem responseForms : Obligations.ResponseForms := by
  refine ⟨fun i s t ht => ?command, fun s w => ⟨fun h => ?accepted, fun h => ?rejected⟩⟩
  case accepted => rw [randintTurn_of_lt h]; exact ⟨rfl, rfl⟩
  case rejected => rw [randintTurn_of_le h]; exact ⟨rfl, rfl⟩
  obtain rfl := (exec_next_iff i s t).mp ht
  rcases after_cases i s with ⟨hi, k, u, h, hu⟩ | ⟨-, e, h, -⟩ | ⟨-, rfl, h⟩ | ⟨-, rfl, h⟩ | ⟨-, n, rfl, h⟩ |
    ⟨-, a, b, rfl, hab, h⟩ | ⟨x, v, rfl, -, -, hv, h⟩ <;> rw [h]
  · have hresponses : u.rspOut = s.rspOut := by
      rcases hu with rfl | ⟨-, rfl⟩
      · rfl
      · exact dropEntropy_rspOut s
    refine .inr ⟨⟨.ok, []⟩, by simp [hresponses], rfl, fun _ => rfl, fun _ => ?_⟩
    cases i with
    | seed _ | seede | reseed _ => rfl
    | next | random | randint _ _ | randbytes _ | rdreg _ => cases hi
  · exact .inr ⟨⟨e.status, []⟩, rfl, rfl, fun _ => rfl, fun hok => absurd hok (coreError_status_ne_ok e)⟩
  · exact .inr ⟨⟨.ok, _⟩, rfl, rfl, fun herr => absurd rfl herr, fun _ => rfl⟩
  · exact .inr ⟨⟨.ok, _⟩, rfl, rfl, fun herr => absurd rfl herr, fun _ => rfl⟩
  · exact .inr ⟨⟨.ok, _⟩, by rw [randbytesSeeded, respond_rspOut, drawN_rspOut], rfl, fun herr => absurd rfl herr,
      fun _ => randbytesPayload_length n.toNat s⟩
  · rcases randintTurn_cases (randintWork (sint64 a) (sint64 b)) s with ⟨-, hturn⟩ | ⟨-, hturn⟩ <;> rw [hturn]
    · obtain ⟨hlow, hhigh⟩ := randintResult_mem hab (drawOut s)
      exact .inr ⟨⟨.ok, _⟩, rfl, rfl, fun herr => absurd rfl herr, fun _ => ⟨_, hlow, hhigh, rfl⟩⟩
    · exact .inl ⟨rfl, nofun, a, b, rfl⟩
  · exact .inr ⟨⟨.ok, _⟩, rfl, rfl, fun herr => absurd rfl herr, fun _ => ⟨v, hv, rfl⟩⟩

/-! ### RDREG's corner cases (44_inspect.md) -/

theorem exec_rdreg_status (s : State) :
    exec (.rdreg 6) s = .next { s with rspOut := s.rspOut ++ [⟨.ok, le64 (statusView s)⟩] } :=
  exec_rdreg_of_readReg rfl fun h => absurd h (by decide)

/-- `out` is answered on every core, whatever wrote it. -/
theorem exec_rdreg_out {s : State} {v : Word} (h : s.out = v) :
    exec (.rdreg 7) s = .next { s with rspOut := s.rspOut ++ [⟨.ok, le64 v⟩] } :=
  exec_rdreg_of_readReg (congrArg some h) fun h => absurd h (by decide)

/-- A turn of RANDINT, accepted or not, leaves its draw in `out`. -/
theorem randintTurn_out (w : RandintWork) (s : State) : (randintTurn w s).out = drawOut s := by
  rcases randintTurn_cases w s with ⟨-, h⟩ | ⟨-, h⟩ <;> rw [h] <;> rfl

/-- Settles O40: RDREG 7 answers what the command before it left in `out` (`exec_rdreg_out`); the other clauses are
RDREG's rows. -/
theorem rdregCornerCases : Obligations.RdregCornerCases := by
  refine ⟨⟨rfl, rfl, fun t hs hout => ⟨?_, exec_rdreg_out hout, fun x hx => exec_of_unseeded (decide_eq_true hx) hs⟩⟩,
    fun i s t hi ht => ?seeding, fun i s t hs hi ht => ?draw, fun s w => exec_rdreg_out (randintTurn_out w s),
    fun s t n hs ht => ?randbytes, fun s x hx => exec_rdreg_of_indexReserved s ?index, fun s t e rest hent ht => ?seede⟩
  · rw [exec_rdreg_status, statusView, hs]; rfl
  case seeding =>
    rw [(exec_next_iff i s t).mp ht]
    exact exec_rdreg_out (after_of_isSeeding hi s).2
  case draw =>
    rw [(exec_next_iff i s t).mp ht]
    rcases hi with rfl | rfl <;> rw [after, whenSeeded_of_seeded hs] <;> exact exec_rdreg_out rfl
  case randbytes =>
    rw [exec_randbytes_of_seeded hs] at ht
    cases ht
    exact exec_rdreg_out rfl
  case index => rcases hx with rfl | rfl | rfl <;> decide
  case seede =>
    rw [exec_seede_of_reply hent] at ht
    cases ht
    exact exec_rdreg_of_readReg rfl fun _ => rfl

end Sys2Proof.Machine
end

section
/-!
PROOFS. The machine's invariant (00_scope.md R10; 10_state.md R35, R47, R50): it holds at reset, and every operation
keeps it, so every step does.
-/

namespace Sys2Proof.Machine

theorem State.inflightOk_iff (s : State) :
    s.inflightOk = true ↔ ∀ w, s.inflight = some w → s.seeded = true ∧ w.valid := by
  rw [State.inflightOk]
  cases s.inflight <;> simp

/-- A command in progress runs on a seeded core and over a valid range. -/
theorem State.inv_inflight {s : State} {w : RandintWork} (h : s.Inv) (hw : s.inflight = some w) :
    s.seeded = true ∧ w.valid := by
  obtain ⟨-, hok, -⟩ := h
  exact (State.inflightOk_iff s).mp hok w hw

/-- On a seeded core the registers do not matter: the invariant is about the build and the command in progress. -/
theorem State.inv_iff_of_seeded {s : State} (hs : s.seeded = true) :
    s.Inv ↔ s.cfg.wf = true ∧ ∀ w, s.inflight = some w → w.valid := by
  simp [State.Inv, State.inflightOk_iff, hs]

/-- The working values that RANDINT forms from its operands belong to a range of 64-bit bounds. -/
theorem randintWork_valid {a b : Word} (hab : sint64 a ≤ sint64 b) :
    (randintWork (sint64 a) (sint64 b)).valid := by
  have ha := sint64_ge a
  have hb := sint64_lt b
  have hspan := spanOf_cast hab
  refine ⟨spanOf_pos hab, ?_, rfl, ha, ?_⟩ <;> simp only [randintWork] <;> omega

/-- Settles O55: the reference constants are admissible; the other two clauses are fields of `State.reset`. -/
theorem invariantAtReset : Obligations.InvariantAtReset := ⟨by decide, rfl, fun _ => rfl⟩

/-! ### Every operation keeps it -/

section Kept

variable {s : State} (h : s.Inv)
include h

theorem inv_applyReset : (applyReset s).Inv := ⟨h.1, rfl, fun _ => rfl⟩

/-- A seeding may find the core unseeded; what it needs of the command in progress is its range only. -/
theorem inv_seedProc (k : Word) : (seedProc k s).Inv :=
  (State.inv_iff_of_seeded rfl).mpr ⟨h.1, fun _ hw => (State.inv_inflight h hw).2⟩

theorem inv_dropEntropy : (dropEntropy s).Inv := by
  simpa only [State.Inv, State.inflightOk_iff, dropEntropy_cfg, dropEntropy_seeded, dropEntropy_out,
    dropEntropy_inflight] using h

theorem inv_drawN (hs : s.seeded = true) (k : Nat) : (drawN k s).Inv := by
  rw [State.inv_iff_of_seeded hs] at h
  rwa [State.inv_iff_of_seeded ((drawN_seeded k s).trans hs), drawN_cfg, drawN_inflight]

theorem inv_randintTurn {w : RandintWork} (hs : s.seeded = true) (hw : w.valid) : (randintTurn w s).Inv := by
  rw [State.inv_iff_of_seeded ((randintTurn_seeded w s).trans hs), randintTurn_cfg]
  refine ⟨h.1, fun w' hw' => ?_⟩
  rcases randintTurn_cases w s with ⟨-, hturn⟩ | ⟨-, hturn⟩ <;> rw [hturn] at hw'
  · cases hw'
  · cases hw'
    exact hw

theorem inv_after (i : Instr) : (after i s).Inv := by
  rcases after_cases i s with ⟨-, k, u, heq, hu⟩ | ⟨-, e, heq, -⟩ | ⟨hs, -, heq⟩ | ⟨hs, -, heq⟩ | ⟨hs, n, -, heq⟩ |
    ⟨hs, a, b, -, hab, heq⟩ | ⟨x, v, -, -, -, -, heq⟩ <;> rw [heq]
  · rcases hu with rfl | ⟨-, rfl⟩
    · exact inv_seedProc h k
    · exact inv_seedProc (inv_dropEntropy h) k
  · exact h
  · exact inv_drawN h hs 1
  · exact inv_drawN h hs 1
  · exact inv_drawN h hs (drawsFor n.toNat)
  · exact inv_randintTurn h hs (randintWork_valid hab)
  · exact h

end Kept

/-- Settles O56: the invariant does not speak of the queue, so taking an event keeps it, and so does what the step then
does: `inv_applyReset`, `inv_randintTurn`, an error, or `inv_after`. -/
theorem invariantKept : Obligations.InvariantKept := by
  intro s t h ht
  rw [(step_next_iff s t).mp ht]
  rcases stepState_cases s with ⟨-, -, heq⟩ | ⟨rest, -, heq⟩ | ⟨w, hw, -, heq⟩ | ⟨cw, rest, -, -, -, -, heq⟩ |
    ⟨cw, rest, i, -, -, -, heq⟩ <;> rw [heq]
  · exact h
  · exact inv_applyReset (s := { s with cmdIn := rest }) h
  · obtain ⟨hs, hvalid⟩ := State.inv_inflight h hw
    exact inv_randintTurn h hs hvalid
  · exact h
  · exact inv_after (s := { s with cmdIn := rest }) h i

end Sys2Proof.Machine
end

section
/-!
PROOFS. Two cores that cannot be told apart (10_state.md R36): after a seeding with one seed (41_seeding.md section 4),
and before the first one (10_state.md R50).
-/

namespace Sys2Proof.Machine

/-- Two cores with the same build, inputs and command in progress, the latter on a seeded core only, that agree as
architectural states and have answered the same since their responses were `p` and `q`. -/
structure Alike (p q : List Response) (s t : State) : Prop where
  cfg : s.cfg = t.cfg
  inflight : s.inflight = t.inflight
  cmdIn : s.cmdIn = t.cmdIn
  entIn : s.entIn = t.entIn
  entDrawn : s.entDrawn = t.entDrawn
  epoch : s.epoch = t.epoch
  arch : s.archEq t
  seeded_of_inflight : s.inflight ≠ none → s.seeded = true
  responses : ∃ rs, s.rspOut = p ++ rs ∧ t.rspOut = q ++ rs

theorem archEq_with_rspOut (s : State) (r : List Response) : s.archEq { s with rspOut := r } :=
  ⟨rfl, rfl, fun _ => ⟨rfl, rfl, rfl, rfl, rfl, rfl⟩⟩

/-- Of the state a seeding reads the build alone (41_seeding.md R133). -/
theorem archEq_seedProc {s t : State} (hcfg : s.cfg = t.cfg) (k : Word) : (seedProc k s).archEq (seedProc k t) := by
  have word_eq (i : Nat) : seedWord s.cfg.mix k i = seedWord t.cfg.mix k i := by rw [hcfg]
  exact ⟨rfl, rfl, fun _ => ⟨rfl, word_eq 0, word_eq 1, word_eq 2, word_eq 3, rfl⟩⟩

namespace Alike

variable {p q : List Response} {s t : State} (h : Alike p q s t)
include h

theorem seeded : s.seeded = t.seeded := h.arch.1

/-- On a seeded core every register is compared, so the two differ in their responses only. -/
theorem eq_with_rspOut (hs : s.seeded = true) : ∃ r, t = { s with rspOut := r } := by
  obtain ⟨hseeded, hout, hregs⟩ := h.arch
  obtain ⟨hseed, h0, h1, h2, h3, hcounter⟩ := hregs hs
  refine ⟨t.rspOut, ?_⟩
  rw [h.cfg, hseeded, hout, hseed, h0, h1, h2, h3, hcounter, h.inflight, h.cmdIn, h.entIn, h.entDrawn, h.epoch]

/-- One check decides the same for both. -/
theorem ite {s' t' : State} (h' : Alike p q s' t') {c : Prop} [Decidable c] :
    Alike p q (if c then s else s') (if c then t else t') := by
  split <;> assumption

/-! ### Every operation keeps two cores alike -/

theorem respond (st : Status) (payload : List Byte) :
    Alike p q (Machine.respond st payload s) (Machine.respond st payload t) := by
  obtain ⟨rs, hs, ht⟩ := h.responses
  exact { h with responses := ⟨rs ++ [⟨st, payload⟩], by simp [hs], by simp [ht]⟩ }

theorem raiseError (e : CoreError) : Alike p q (Machine.raiseError e s) (Machine.raiseError e t) :=
  h.respond e.status []

theorem takeEvent (rest : List HostEvent) : Alike p q { s with cmdIn := rest } { t with cmdIn := rest } :=
  { h with cmdIn := rfl }

theorem applyReset : Alike p q (Machine.applyReset s) (Machine.applyReset t) :=
  { h with
    inflight := rfl
    epoch := congrArg (· + 1) h.epoch
    arch := ⟨rfl, rfl, nofun⟩
    seeded_of_inflight := fun hw => absurd rfl hw }

theorem seedProc (k : Word) : Alike p q (Machine.seedProc k s) (Machine.seedProc k t) :=
  { h with arch := archEq_seedProc h.cfg k, seeded_of_inflight := fun _ => rfl }

theorem entropyReply_eq : entropyReply s = entropyReply t := by
  rw [entropyReply, entropyReply, h.entIn, h.entDrawn]

theorem dropEntropy : Alike p q (Machine.dropEntropy s) (Machine.dropEntropy t) := by
  rw [Machine.dropEntropy, Machine.dropEntropy, ← h.entIn]
  cases s.entIn with
  | nil => exact { h with entIn := rfl, entDrawn := congrArg (· + 1) h.entDrawn }
  | cons e rest => exact { h with entIn := rfl }

theorem drawOut_eq (hs : s.seeded = true) : drawOut s = drawOut t := by
  obtain ⟨r, rfl⟩ := h.eq_with_rspOut hs
  rfl

theorem draw (hs : s.seeded = true) : Alike p q (Machine.draw s) (Machine.draw t) := by
  obtain ⟨r, rfl⟩ := h.eq_with_rspOut hs
  exact { h with arch := archEq_with_rspOut (Machine.draw s) r }

theorem setInflight (hs : s.seeded = true) (w : Option RandintWork) :
    Alike p q { s with inflight := w } { t with inflight := w } :=
  { h with inflight := rfl, seeded_of_inflight := fun _ => hs }

omit h in
theorem drawN (h : Alike p q s t) (hs : s.seeded = true) (k : Nat) :
    Alike p q (Machine.drawN k s) (Machine.drawN k t) := by
  induction k generalizing s t with
  | zero => exact h
  | succ k ih => exact ih (h.draw hs) hs

theorem drawBytes_eq (hs : s.seeded = true) (k : Nat) : drawBytes k s = drawBytes k t := by
  obtain ⟨r, rfl⟩ := h.eq_with_rspOut hs
  exact (drawBytes_with k s s.seed s.inflight s.cmdIn r).symm

/-! ### Every command and every step -/

theorem whenSeeded {f : State → State} (hf : s.seeded = true → Alike p q (f s) (f t)) :
    Alike p q (Machine.whenSeeded f s) (Machine.whenSeeded f t) := by
  cases hs : s.seeded with
  | true => rw [whenSeeded_of_seeded hs, whenSeeded_of_seeded (h.seeded ▸ hs)]; exact hf hs
  | false => rw [whenSeeded_of_unseeded hs, whenSeeded_of_unseeded (h.seeded ▸ hs)]; exact h.raiseError .unseeded

theorem randintTurn (hs : s.seeded = true) (w : RandintWork) :
    Alike p q (Machine.randintTurn w s) (Machine.randintTurn w t) := by
  rw [Machine.randintTurn, Machine.randintTurn, ← h.drawOut_eq hs]
  exact (((h.draw hs).setInflight hs none).respond _ _).ite ((h.draw hs).setInflight hs (some w))

theorem randintSeeded (hs : s.seeded = true) (a b : Int) :
    Alike p q (Machine.randintSeeded a b s) (Machine.randintSeeded a b t) := by
  rw [Machine.randintSeeded, Machine.randintSeeded]
  exact (h.raiseError .invalidRange).ite (h.randintTurn hs _)

/-- A register that may be read is compared. -/
theorem readReg_eq {i : Nat} (hi : i ≤ 5 → s.seeded = true) : readReg i s = readReg i t := by
  obtain ⟨hseeded, hout, hregs⟩ := h.arch
  rcases Nat.lt_or_ge 5 i with h6 | h5
  · match i, h6 with
    | 6, _ => simp only [readReg, statusView, hseeded]
    | 7, _ => simp only [readReg, hout]
    | _ + 8, _ => rfl
  · obtain ⟨r, rfl⟩ := h.eq_with_rspOut (hi h5)
    match i, h5 with
    | 0, _ | 1, _ | 2, _ | 3, _ | 4, _ | 5, _ => rfl

theorem rdreg (x : Word) : Alike p q (after (.rdreg x) s) (after (.rdreg x) t) := by
  by_cases hx : x.toNat ≤ 5 ∧ s.seeded = false
  · obtain ⟨h5, hs⟩ := hx
    have hneeds : needsSeed (.rdreg x) = true := decide_eq_true h5
    rw [after_of_unseeded hneeds hs, after_of_unseeded hneeds (h.seeded ▸ hs)]
    exact h.raiseError .unseeded
  · have hread : readReg x.toNat s = readReg x.toNat t :=
      h.readReg_eq fun h5 => Bool.of_not_eq_false fun hs => hx ⟨h5, hs⟩
    simp only [after, indexOperand, rdregState, ← hread, ← h.seeded]
    cases readReg x.toNat s with
    | none => exact h.raiseError .illegal
    | some v =>
      exact (h.raiseError .unseeded).ite (h.respond .ok (le64 v))

theorem after (i : Instr) : Alike p q (Machine.after i s) (Machine.after i t) := by
  cases i with
  | seed k => exact (h.seedProc k).respond _ _
  | seede =>
    rw [Machine.after, Machine.after, ← h.entropyReply_eq]
    exact (h.dropEntropy.seedProc _).respond _ _
  | reseed k => exact (h.seedProc k).respond _ _
  | next =>
    refine h.whenSeeded fun hs => ?_
    rw [nextSeeded, nextSeeded, ← h.drawOut_eq hs]
    exact (h.draw hs).respond _ _
  | random =>
    refine h.whenSeeded fun hs => ?_
    rw [randomSeeded, randomSeeded, ← h.drawOut_eq hs]
    exact (h.draw hs).respond _ _
  | randint a b => exact h.whenSeeded fun hs => h.randintSeeded hs _ _
  | randbytes n =>
    refine h.whenSeeded fun hs => ?_
    rw [randbytesSeeded, randbytesSeeded, ← h.drawBytes_eq hs]
    exact (h.drawN hs _).respond _ _
  | rdreg x => exact h.rdreg x

/-- The simulation: two cores that are alike fetch the same and do the same with it. -/
theorem step : Alike p q (stepState s) (stepState t) := by
  rcases stepState_cases s with ⟨hidle, hempty, heq⟩ | ⟨rest, hreset, heq⟩ | ⟨w, hw, hno, heq⟩ |
    ⟨cw, rest, e, hidle, hword, hd, heq⟩ | ⟨cw, rest, i, hidle, hword, hd, heq⟩ <;> rw [heq]
  · rw [stepState_of_idle (h.inflight ▸ hidle) (h.cmdIn ▸ hempty)]
    exact h
  · rw [stepState_of_reset (h.inflight ▸ h.cmdIn ▸ hreset)]
    exact (h.takeEvent rest).applyReset
  · rw [stepState_of_inflight (h.inflight ▸ hw) (h.cmdIn ▸ hno)]
    exact h.randintTurn (h.seeded_of_inflight (by simp [hw])) w
  · rw [stepState_of_decode_error (h.inflight ▸ hidle) (h.cmdIn ▸ hword) (h.cfg ▸ hd)]
    exact (h.takeEvent rest).raiseError .illegal
  · rw [stepState_of_decode_ok (h.inflight ▸ hidle) (h.cmdIn ▸ hword) (h.cfg ▸ hd)]
    exact (h.takeEvent rest).after i

theorem iterate (n : Nat) : Alike p q (stepState^[n] s) (stepState^[n] t) := by
  induction n with
  | zero => exact h
  | succ n ih =>
    rw [Function.iterate_succ_apply', Function.iterate_succ_apply']
    exact ih.step

end Alike

/-- Settles O19: the two seedings leave the cores alike, each from its own responses on, and alike they stay
(`Alike.iterate`). -/
theorem reseedIsolation : Obligations.ReseedIsolation := by
  intro s t s₁ t₁ k hcfg hinflight hcmdIn hentIn hentDrawn hepoch hs₁ ht₁ n
  obtain rfl := (exec_next_iff _ s s₁).mp hs₁
  obtain rfl := (exec_next_iff _ t t₁).mp ht₁
  have halike : Alike (after (.reseed k) s).rspOut (after (.seed k) t).rspOut (after (.reseed k) s)
      (after (.seed k) t) :=
    { cfg := hcfg, inflight := hinflight, cmdIn := hcmdIn, entIn := hentIn, entDrawn := hentDrawn, epoch := hepoch
      arch := archEq_seedProc hcfg k
      seeded_of_inflight := fun _ => rfl
      responses := ⟨[], by simp, by simp⟩ }
  have hn := halike.iterate n
  obtain ⟨rs, hrs, hrt⟩ := hn.responses
  exact ⟨_, _, rs, run_eq n _, run_eq n _, hrs, hrt, hn.arch⟩

/-- Settles O57: two states that agree and have the same interfaces are alike from no responses on
(`Alike.iterate`). -/
theorem unsetRegistersUnobservable : Obligations.UnsetRegistersUnobservable := by
  intro s t hok harch hsame n
  obtain ⟨hcfg, hinflight, hcmdIn, hrspOut, hentIn, hentDrawn, hepoch⟩ := hsame
  have halike : Alike [] [] s t :=
    { cfg := hcfg, inflight := hinflight, cmdIn := hcmdIn, entIn := hentIn, entDrawn := hentDrawn, epoch := hepoch
      arch := harch
      seeded_of_inflight := fun hw =>
        (Option.ne_none_iff_exists'.mp hw).elim fun w hw => ((State.inflightOk_iff s).mp hok w hw).1
      responses := ⟨s.rspOut, rfl, hrspOut.symm⟩ }
  have hn := halike.iterate n
  obtain ⟨rs, hrs, hrt⟩ := hn.responses
  exact ⟨_, _, run_eq n s, run_eq n t, hn.arch, hn.cfg, hn.inflight, hn.cmdIn, hrs.trans hrt.symm, hn.entIn,
    hn.entDrawn, hn.epoch⟩

end Sys2Proof.Machine
end

section
/-!
PROOFS. The reference digest chapter (48_reference_digest.md): the padding of SHA-256 (R225), and the core's one block.
-/

namespace Sys2Proof

/-- A byte of the low 64 bits of a number is a byte of the number. -/
theorem extractLsb'_ofNat_byte (n : Nat) {j : Nat} (hj : j < 8) :
    (BitVec.ofNat 64 n).extractLsb' (8 * j) 8 = BitVec.ofNat 8 (n / 2 ^ (8 * j)) := by
  refine BitVec.eq_of_getLsbD_eq fun i hi => ?_
  rw [BitVec.getLsbD_extractLsb', BitVec.getLsbD_ofNat, BitVec.getLsbD_ofNat, Nat.testBit_div_two_pow,
    decide_eq_true (show 8 * j + i < 64 by omega), Nat.add_comm i]
  simp

/-- The bit length at the end of the padding, most significant byte first (R225). -/
theorem reverse_leBytes_ofNat (n : Nat) :
    (leBytes 8 (BitVec.ofNat 64 n)).reverse = (List.range 8).map fun i => BitVec.ofNat 8 (n / 2 ^ (8 * (7 - i))) := by
  have hreverse (v : Word) : (leBytes 8 v).reverse = (List.range 8).map fun i => v.extractLsb' (8 * (7 - i)) 8 := rfl
  rw [hreverse]
  exact List.map_congr_left fun i _ => extractLsb'_ofNat_byte n (by omega)

theorem shaPad_eq (m : List Byte) :
    shaPad m = m ++ [0x80] ++ List.replicate ((119 - m.length % 64) % 64) 0
      ++ (List.range 8).map fun i => BitVec.ofNat 8 (8 * m.length / 2 ^ (8 * (7 - i))) := by
  rw [shaPad, reverse_leBytes_ofNat, List.append_cons]

theorem shaPad_length (m : List Byte) : (shaPad m).length = m.length + 1 + (119 - m.length % 64) % 64 + 8 := by
  simp only [shaPad_eq, List.length_append, List.length_singleton, List.length_replicate, List.length_map,
    List.length_range]

/-- Settles O60: `shaPad_eq` and `shaPad_length` at any length, and at 40, where the one block is the whole padded
message. -/
theorem sha256Padding : Obligations.Sha256Padding := by
  refine ⟨fun m => ⟨(119 - m.length % 64) % 64, Nat.mod_lt _ (by decide), by omega, shaPad_eq m, ?_, rfl⟩,
    fun n h m => ⟨rfl, rfl⟩, fun m hm => ?_⟩
  · rw [shaPad_length]
    omega
  · have hlen : (shaPad m).length = 64 := by rw [shaPad_length, hm]
    have hdigest : (sha256 m).toList = shaOutput (shaBlocks ((shaPad m).length / 64) shaInit (shaPad m)) := rfl
    refine ⟨by rw [shaPad_eq, hm]; rfl, hlen, ?_⟩
    rw [hdigest, hlen, shaBlocks, List.take_of_length_le hlen.le]; rfl

end Sys2Proof
end
